-- ==== Sys2Proof/Word.lean ====
section
/-! DEFINITION. The byte of the wire (spec/00_scope.md R12). -/

namespace Sys2Proof

/-- A byte: a natural number in [0, 255], bit 0 least significant (R12). -/
abbrev Byte := BitVec 8

end Sys2Proof
end

