-- ==== Sys2Proof/Config.lean ====
section
/-! DEFINITION. The block's configuration as plain data (spec/00_scope.md R10, spec/10_state.md R21, R29,
spec/30_encoding.md R64), the transport's answers, and the free values. The reference values of the configuration stand
in Machine/Reference.lean. -/

namespace Sys2Proof

/-- The two chip variants (R2). -/
inductive Variant where
  | A
  | B
  deriving DecidableEq, Repr

/-- The polarity of a status flag (R29): asserted at 1 or asserted at 0. -/
inductive Level where
  | high
  | low
  deriving DecidableEq, Repr

/-- One entry of a status-word layout (R29). -/
inductive LayoutEntry where
  | flag (name : String) (bit : Nat) (level : Level)
  | field (name : String) (hi lo : Nat) (values : List (Nat × String))
  deriving DecidableEq, Repr

/-- One register of a profile's table: its name (R28, R73) and its width in bits (R24). -/
structure RegisterRow where
  name : String
  width : Nat
  deriving DecidableEq, Repr

/-- A Variant Profile P (R21). `rows` is the function `P.width` on `1 .. N-1` as plain data: the register at address `a`
is entry `a - 1`. -/
structure Profile where
  variant : Variant
  N : Nat
  rows : List RegisterRow
  layout : List LayoutEntry
  deriving DecidableEq, Repr

/-- An opcode set O (R64), with the direction bit's value for a non-negative argument (R10 `DIR_NONNEG`; true is 1). -/
structure OpcodeSet where
  nop : Byte
  getFlag : Byte
  runBase : Byte
  moveBase : Byte
  dirMask : Byte
  dirNonneg : Bool
  softStop : Byte
  hardStop : Byte
  softHiZ : Byte
  hardHiZ : Byte
  resetDevice : Byte
  getStatus : Byte
  deriving DecidableEq, Repr

/-- The opaque payload of a transport failure (R180, U4), named by a natural number (log 10). -/
abbrev Payload := Nat

/-- The identity of a caller: any distinct value (R229, D31), here a natural number (log 10). -/
abbrev Caller := Nat

/-- What the transport answers to one primitive (R180): `ok`, with the byte for a read; `TF(e)`; or it has not returned
yet (R188). The byte of `ok` is looked at for `RxByte` only. -/
inductive Answer where
  | ok (b : Byte)
  | fail (e : Payload)
  | notYet
  deriving DecidableEq, Repr, Inhabited

/-- FREE VALUE (R189, U1, U4, D23; log 7): the transport's n-th answer that `State.answers` does not give. Nothing is
assumed of it. -/
opaque Config.freeAnswer : Nat → Answer

/-- FREE VALUE (R186, U5, D28; log 8): the n-th choice of the next agent that `State.schedule` does not give. Nothing is
assumed of it. -/
opaque Config.freeChoice : Nat → Nat

end Sys2Proof
end

