-- ==== Sys2Proof/Machine/ByteCodec.lean ====
section
/-! DEFINITION. The Byte Codec (spec/41_byte_codec.md R100 to R104): big-endian, the same for every command and both
variants. All three functions are total. -/

namespace Sys2Proof.Machine

/-- R100: the number of bytes that hold a width-`w` value, `ceil(w / 8)`. -/
def bytesNeeded (w : Nat) : Nat := (w + 7) / 8

/-- R101 for a natural already reduced: byte `i` of the list has weight `256^(n-1-i)`. -/
def encodeNat (t : Nat) : Nat → List Byte
  | 0 => []
  | n + 1 => BitVec.ofNat 8 (t >>> (8 * n)) :: encodeNat t n

/-- R101: `n` bytes of the integer `v`, most significant first; overflow is silent truncation by the Euclidean `mod`. -/
def encode (v : Int) (n : Nat) : List Byte := encodeNat (v % 2 ^ (8 * n)).toNat n

/-- R102: the fold of a byte list, most significant first, into an unsigned integer. -/
def decodeBE (bs : List Byte) : Nat := bs.foldl (fun acc b => acc * 256 + b.toNat) 0

end Sys2Proof.Machine
end

