-- ==== Sys2Proof/Machine/RegisterMap.lean ====
section
/-! DEFINITION. The Register Map and the construction of a Variant Profile (spec/40_register_map.md R90 to R95,
spec/10_state.md R22 to R24), the well-formedness of an opcode set (spec/30_encoding.md R65), and the three errors
(spec/60_exceptions.md R220). -/

namespace Sys2Proof.Machine

/-- The three errors of R220, each with the information it records. -/
inductive TxError where
  | invalidRegister (a : Nat)
  | unsupportedResponseWidth (k : Nat)
  | transportFailure (e : Payload)
  deriving DecidableEq, Repr

/-- R220: the numeric code of an error. -/
def errorCode : TxError → Nat
  | .invalidRegister _ => 1
  | .unsupportedResponseWidth _ => 2
  | .transportFailure _ => 3

/-- R220: the information an error records. -/
def errorInfo : TxError → Nat
  | .invalidRegister a => a
  | .unsupportedResponseWidth k => k
  | .transportFailure e => e

/-- R90: `a` is a valid register address of `P`. -/
def valid (P : Profile) (a : Nat) : Bool := decide (1 ≤ a) && decide (a < P.N)

/-- R10: the bounds of a register width. -/
def widthMin : Nat := 4
/-- R10: the bounds of a register width. -/
def widthMax : Nat := 22

/-- R91: the width of register `a`, or InvalidRegister(a). There is no default width: an address in range without a row
(no well-formed profile has one, WF2) is refused as invalid too ("unassigned", R23). -/
def width (P : Profile) (a : Nat) : Except TxError Nat :=
  if valid P a then
    match P.rows[a - 1]? with
    | some row => .ok row.width
    | none => .error (.invalidRegister a)
  else .error (.invalidRegister a)

/-- R92: the wire byte count of register `a`. -/
def regBytes (P : Profile) (a : Nat) : Except TxError Nat :=
  match width P a with
  | .ok w => .ok (bytesNeeded w)
  | .error e => .error e

/-- R27: CONFIG is the second highest valid address. With `N = 2` there is one valid address, and R27's `N - 2` is the invalid
address 0 (log 20). -/
def configAddr (P : Profile) : Nat := P.N - 2

/-- R27: STATUS is the highest valid address. -/
def statusAddr (P : Profile) : Nat := P.N - 1

/-- R26 (iii): Variant B's two gate-configuration registers stand right before CONFIG and STATUS. Where `N` below 5 leaves no
room for them above address 0, which the spec does not speak of, there are none: the model's choice (log 20). -/
def gateAddrs (P : Profile) : List Nat :=
  match P.variant with
  | .A => []
  | .B => if 5 ≤ P.N then [P.N - 4, P.N - 3] else []

/-- The bits of the status word that a layout entry names (R29). -/
def entryBits : LayoutEntry → List Nat
  | .flag _ bit _ => [bit]
  | .field _ hi lo _ => (List.range (hi + 1 - lo)).map (lo + ·)

/-- WF4 of R22: every entry lies within bits [15:0] (and a field is not empty), and no two entries share a bit. -/
def layoutWf (layout : List LayoutEntry) : Bool :=
  layout.all (fun e => !(entryBits e).isEmpty && (entryBits e).all (fun b => decide (b ≤ 15)))
    && decide (layout.flatMap entryBits).Nodup

/-- WF3 of R22 for one register. -/
def widthOk (w : Nat) : Bool := decide (widthMin ≤ w) && decide (w ≤ widthMax)

/-- R22: WF1 to WF4 of a profile. WF2 (totality): the table has exactly one row for each of `1 .. N-1`. -/
def profileWf (P : Profile) : Bool :=
  decide (2 ≤ P.N) && decide (P.N ≤ 0x20) && decide (P.rows.length + 1 = P.N)
    && P.rows.all (fun row => widthOk row.width) && layoutWf P.layout

/-- Which check of R22 refuses a profile (R93). -/
inductive ProfileError where
  | wf1
  | wf2 (a : Nat)
  | wf3 (a : Nat)
  | wf4
  deriving DecidableEq, Repr

/-- The rows of the addresses `a .. a + n - 1` of a partial table, with WF2 and WF3 checked on each (R93). -/
def collectRows (table : List (Nat × RegisterRow)) (a : Nat) : Nat → Except ProfileError (List RegisterRow)
  | 0 => .ok []
  | n + 1 =>
    match table.lookup a with
    | none => .error (.wf2 a)
    | some row =>
      if widthOk row.width then
        match collectRows table (a + 1) n with
        | .ok rows => .ok (row :: rows)
        | .error e => .error e
      else .error (.wf3 a)

/-- R93: construct a Variant Profile from a partial table, or refuse it by the check it fails. Entries at 0 or at
addresses `>= N` are ignored. -/
def makeProfile (variant : Variant) (N : Nat) (table : List (Nat × RegisterRow)) (layout : List LayoutEntry) :
    Except ProfileError Profile :=
  if 2 ≤ N ∧ N ≤ 0x20 then
    match collectRows table 1 (N - 1) with
    | .error e => .error e
    | .ok rows => if layoutWf layout then .ok ⟨variant, N, rows, layout⟩ else .error .wf4
  else .error .wf1

/-- The ten non-NOP opcode bytes of R65 O3. -/
def nonNopOpcodes (O : OpcodeSet) : List Byte :=
  [O.runBase, O.runBase ||| O.dirMask, O.moveBase, O.moveBase ||| O.dirMask, O.softStop, O.hardStop, O.softHiZ,
    O.hardHiZ, O.resetDevice, O.getStatus]

/-- O1 of R65: the two opcodes the source fixes. -/
def opcodesO1 (O : OpcodeSet) : Bool := O.nop == 0x00#8 && O.getFlag == 0x20#8

/-- O2 of R65: the direction mask has exactly one bit set, and neither motion base has it. -/
def opcodesO2 (O : OpcodeSet) : Bool :=
  (List.range 8).any (fun i => O.dirMask == 1#8 <<< i)
    && O.runBase &&& O.dirMask == 0#8 && O.moveBase &&& O.dirMask == 0#8

/-- O3 of R65: the eleven opcode bytes are pairwise distinct. -/
def opcodesO3 (O : OpcodeSet) : Bool := decide (O.nop :: nonNopOpcodes O).Nodup

/-- O4 of R65: no non-NOP opcode byte is the set or get opcode of a valid address. -/
def opcodesO4 (P : Profile) (O : OpcodeSet) : Bool :=
  (nonNopOpcodes O).all fun b =>
    !valid P b.toNat && (List.range P.N).all fun a => !(valid P a && b == 0x20#8 ||| BitVec.ofNat 8 a)

/-- R65: O1 to O4 of an opcode set against a profile. -/
def opcodesWf (P : Profile) (O : OpcodeSet) : Bool := opcodesO1 O && opcodesO2 O && opcodesO3 O && opcodesO4 P O

/-- R22 and R65 together: a block may be built from `P` and `O`. -/
def configWf (P : Profile) (O : OpcodeSet) : Bool := profileWf P && opcodesWf P O

end Sys2Proof.Machine
end

