-- ==== Sys2Proof/Machine/Reference.lean ====
section
/-! DEFINITION. The constants the source fixes (spec/00_scope.md R10) and the reference configuration
(spec/10_state.md R28, R31, spec/30_encoding.md R64). The reference values marked GK in the spec are PRESUMED (logs 2 and
3): the ST L6470 family as commonly known. -/

namespace Sys2Proof.Machine

/-- R10: the argument byte count of RUN and MOVE. -/
def motionBytes : Nat := 3
/-- R10: the response byte count of getStatus. -/
def statusBytes : Nat := 2
/-- R10: the width of the status word. -/
def statusWidth : Nat := 16
/-- R10: the largest response byte count a command can request. -/
def maxRspBytes : Nat := 3

/-- The register block A and B share, 0x01 to 0x12 (R26, R28): SPEED and KVAL_HOLD from the source (R25), the rest
PRESUMED (log 2). -/
def sharedRows : List RegisterRow :=
  [⟨"ABS_POS", 22⟩, ⟨"EL_POS", 9⟩, ⟨"MARK", 22⟩, ⟨"SPEED", 20⟩, ⟨"ACC", 12⟩, ⟨"DEC", 12⟩, ⟨"MAX_SPEED", 10⟩,
    ⟨"MIN_SPEED", 13⟩, ⟨"KVAL_HOLD", 8⟩, ⟨"KVAL_RUN", 8⟩, ⟨"KVAL_ACC", 8⟩, ⟨"KVAL_DEC", 8⟩, ⟨"INT_SPEED", 14⟩,
    ⟨"ST_SLP", 8⟩, ⟨"FN_SLP_ACC", 8⟩, ⟨"FN_SLP_DEC", 8⟩, ⟨"K_THERM", 4⟩, ⟨"ADC_OUT", 5⟩]

/-- Variant A's table (R28), with the OPEN parameter `W_STEP_MODE_A` (D7); PRESUMED but for the rows R28 marks src. -/
def rowsA (wStepMode : Nat) : List RegisterRow :=
  sharedRows ++ [⟨"OCD_TH", 4⟩, ⟨"STALL_TH", 7⟩, ⟨"FS_SPD", 10⟩, ⟨"STEP_MODE", wStepMode⟩, ⟨"ALARM_EN", 8⟩,
    ⟨"CONFIG", 16⟩, ⟨"STATUS", 16⟩]

/-- Variant B's table (R26, R28), with the OPEN parameter `W_STEP_MODE_B` (D7); PRESUMED but for the rows R28 marks
src. -/
def rowsB (wStepMode : Nat) : List RegisterRow :=
  sharedRows ++ [⟨"OCD_TH", 5⟩, ⟨"STALL_TH", 5⟩, ⟨"FS_SPD", 11⟩, ⟨"STEP_MODE", wStepMode⟩, ⟨"ALARM_EN", 8⟩,
    ⟨"GATECFG1", 11⟩, ⟨"GATECFG2", 8⟩, ⟨"CONFIG", 16⟩, ⟨"STATUS", 16⟩]

/-- R31: the motor-status field of both variants. -/
def motStatus : LayoutEntry :=
  .field "MOT_STATUS" 6 5 [(0, "stopped"), (1, "acceleration"), (2, "deceleration"), (3, "constant speed")]

/-- R31: the direction bit of both variants; only the value 1 has a stated meaning. -/
def dirField : LayoutEntry := .field "DIR" 4 4 [(1, "forward")]

/-- R31, Variant A. BUSY (bit 1, High) is the source's (R30, C2); the rest is PRESUMED (log 3). -/
def layoutA : List LayoutEntry :=
  [.flag "HiZ" 0 .high, .flag "BUSY" 1 .high, .flag "SW_F" 2 .high, .flag "SW_EVN" 3 .high, dirField, motStatus,
    .flag "NOTPERF_CMD" 7 .high, .flag "WRONG_CMD" 8 .high, .flag "UVLO" 9 .low, .flag "TH_WRN" 10 .low,
    .flag "TH_SD" 11 .low, .flag "OCD" 12 .low, .flag "STEP_LOSS_A" 13 .low, .flag "STEP_LOSS_B" 14 .low,
    .flag "SCK_MOD" 15 .high]

/-- R31, Variant B: PRESUMED (log 3). -/
def layoutB : List LayoutEntry :=
  [.flag "HiZ" 0 .high, .flag "BUSY" 1 .low, .flag "SW_F" 2 .high, .flag "SW_EVN" 3 .high, dirField, motStatus,
    .flag "CMD_ERROR" 7 .high, .flag "STCK_MOD" 8 .high, .flag "UVLO" 9 .low, .flag "UVLO_ADC" 10 .low,
    .field "TH_STATUS" 12 11 [(0, "normal"), (1, "warning"), (2, "bridge shutdown"), (3, "device shutdown")],
    .flag "OCD" 13 .low, .flag "STEP_LOSS_A" 14 .low, .flag "STEP_LOSS_B" 15 .low]

/-- The reference profile of Variant A (R28, R31): `N_A = 0x1A`, `W_STEP_MODE_A = 8`. -/
def refA : Profile := ⟨.A, 0x1A, rowsA 8, layoutA⟩

/-- The reference profile of Variant B (R28, R31): `N_B = 0x1C`, `W_STEP_MODE_B = 8`. -/
def refB : Profile := ⟨.B, 0x1C, rowsB 8, layoutB⟩

/-- The reference opcode set (R64): NOP and GET_FLAG from the source, `DIR_NONNEG = 1` by D9 (log 4), the rest PRESUMED
(log 2). -/
def refO : OpcodeSet where
  nop := 0x00#8
  getFlag := 0x20#8
  runBase := 0x50#8
  moveBase := 0x40#8
  dirMask := 0x01#8
  dirNonneg := true
  softStop := 0xB0#8
  hardStop := 0xB8#8
  softHiZ := 0xA0#8
  hardHiZ := 0xA8#8
  resetDevice := 0xC0#8
  getStatus := 0xD0#8

end Sys2Proof.Machine
end

