-- ==== Sys2Proof/Syntax.lean ====
section
/-! DEFINITION. The eleven operations of the block (spec/00_scope.md R8, spec/30_encoding.md R72, R74), one constructor
per row of spec/opcode_table.json, in the table's order. -/

namespace Sys2Proof

/-- One operation as a caller issues it on `req` (R8). Addresses are naturals of any size, `value` and `speed`/`steps`
are integers of any size and sign (R11). -/
inductive Instr where
  | nop
  | setParam (addr : Nat) (value : Int)
  | getParam (addr : Nat)
  | run (speed : Int)
  | move (steps : Int)
  | softStop
  | hardStop
  | softHiZ
  | hardHiZ
  | resetDevice
  | getStatus
  deriving DecidableEq, Repr

end Sys2Proof
end

