-- ==== Sys2Proof/Machine/Operands.lean ====
section
/-! DEFINITION. The command encoder's operand assembly (spec/30_encoding.md R60 to R68): the frame descriptor, the opcode
fields, the sign/magnitude transform (spec/43_motion.md R140) and the frame of each operation. -/

namespace Sys2Proof.Machine

/-- R60: a frame descriptor. -/
structure Frame where
  op : Byte
  args : List Byte
  rspLen : Nat
  deriving DecidableEq, Repr

/-- R60: the conditions on a frame descriptor, the half-duplex condition among them. -/
def frameWf (f : Frame) : Bool :=
  decide (f.args.length ≤ 3) && decide (f.rspLen ≤ maxRspBytes) && (f.args.isEmpty || decide (f.rspLen = 0))

/-- R32: the number of exchanges of a frame. -/
def exchangeCount (f : Frame) : Nat := 1 + f.args.length + f.rspLen

/-- R62: the opcode byte of setParam is the address. -/
def setOpcode (a : Nat) : Byte := BitVec.ofNat 8 a

/-- R62: the opcode byte of getParam is the address with the get flag. -/
def getOpcode (O : OpcodeSet) (a : Nat) : Byte := O.getFlag ||| BitVec.ofNat 8 a

/-- R66: the direction bit of a signed argument; zero is non-negative. -/
def dirBit (O : OpcodeSet) (s : Int) : Bool := if 0 ≤ s then O.dirNonneg else !O.dirNonneg

/-- R63: a motion opcode byte from its base and its direction bit. -/
def motionOpcode (O : OpcodeSet) (base : Byte) (d : Bool) : Byte := base ||| (if d then O.dirMask else 0#8)

/-- R140: the sign/magnitude transform. The magnitude is taken in the integers and truncated to 24 bits by `encode`
(R68, R143). -/
def signMag (O : OpcodeSet) (s : Int) : Bool × List Byte := (dirBit O s, encode (s.natAbs : Int) motionBytes)

/-- R61 format Z: the frame of a command with a fixed opcode and no bytes after it. -/
def fixedFrame (op : Byte) : Frame := ⟨op, [], 0⟩

/-- R61 format M: the frame of a motion command. -/
def motionFrame (O : OpcodeSet) (base : Byte) (s : Int) : Frame :=
  ⟨motionOpcode O base (signMag O s).1, (signMag O s).2, 0⟩

/-- R67, R120: the frame of setParam, or InvalidRegister. -/
def setParamFrame (P : Profile) (addr : Nat) (value : Int) : Except TxError Frame :=
  match width P addr with
  | .ok w => .ok ⟨setOpcode addr, encode (value % 2 ^ w) (bytesNeeded w), 0⟩
  | .error e => .error e

/-- R121: the frame of getParam, or InvalidRegister. -/
def getParamFrame (P : Profile) (O : OpcodeSet) (addr : Nat) : Except TxError Frame :=
  match width P addr with
  | .ok w => .ok ⟨getOpcode O addr, [], bytesNeeded w⟩
  | .error e => .error e

/-- R166: the frame of getStatus. -/
def getStatusFrame (O : OpcodeSet) : Frame := ⟨O.getStatus, [], statusBytes⟩

/-- R74: the Command Encoder, the frame of every operation. -/
def encodeOp (P : Profile) (O : OpcodeSet) : Instr → Except TxError Frame
  | .nop => .ok (fixedFrame O.nop)
  | .setParam addr value => setParamFrame P addr value
  | .getParam addr => getParamFrame P O addr
  | .run speed => .ok (motionFrame O O.runBase speed)
  | .move steps => .ok (motionFrame O O.moveBase steps)
  | .softStop => .ok (fixedFrame O.softStop)
  | .hardStop => .ok (fixedFrame O.hardStop)
  | .softHiZ => .ok (fixedFrame O.softHiZ)
  | .hardHiZ => .ok (fixedFrame O.hardHiZ)
  | .resetDevice => .ok (fixedFrame O.resetDevice)
  | .getStatus => .ok (getStatusFrame O)

end Sys2Proof.Machine
end

