-- ==== Sys2Proof/WellFormed.lean ====
section
/-! DEFINITION. Which operations are in canonical form for a profile: those whose operands a frame carries without loss
(spec/30_encoding.md R67, R68, spec/40_register_map.md R90). An operation that is not in this form still runs (R120, R140:
its value is masked or truncated, or its address is refused with InvalidRegister); the form matters to encoding only. -/

namespace Sys2Proof

/-- A register address the profile has (R90). -/
def addrWellFormed (P : Profile) (a : Nat) : Bool := Machine.valid P a

/-- A setParam value that the mask of R67 leaves as it is. -/
def valueWellFormed (P : Profile) (a : Nat) (v : Int) : Bool :=
  match Machine.width P a with
  | .ok w => decide (0 ≤ v) && decide (v < 2 ^ w)
  | .error _ => false

/-- A motion argument that its direction bit and 24-bit magnitude determine: `-2^24` stands for the frame whose direction
is negative and whose magnitude bytes are zero (log 11). -/
def motionWellFormed (s : Int) : Bool := decide (-2 ^ 24 ≤ s) && decide (s < 2 ^ 24)

/-- The canonical form of an operation for profile `P`. -/
def Instr.wellFormed (P : Profile) : Instr → Bool
  | .nop => true
  | .setParam addr value => addrWellFormed P addr && valueWellFormed P addr value
  | .getParam addr => addrWellFormed P addr
  | .run speed => motionWellFormed speed
  | .move steps => motionWellFormed steps
  | .softStop => true
  | .hardStop => true
  | .softHiZ => true
  | .hardHiZ => true
  | .resetDevice => true
  | .getStatus => true

end Sys2Proof
end

