-- ==== Sys2Proof/Decode.lean ====
section
/-! DEFINITION. Reading bytes back: `classify` (spec/30_encoding.md R70), total over bytes, with `NotEmitted` for every
byte that is no opcode of the block (R71); the operation a frame's host-to-chip bytes stand for; the encoder to those
bytes; and the decoder of the words of spec/opcode_table.json. -/

namespace Sys2Proof

/-- The commands `classify` names (R70); a register command carries its address. -/
inductive Command where
  | nop
  | setParam (a : Nat)
  | getParam (a : Nat)
  | run
  | move
  | softStop
  | hardStop
  | softHiZ
  | hardHiZ
  | resetDevice
  | getStatus
  deriving DecidableEq, Repr

/-- What R70 gives for an opcode byte: the command with the number of bytes written and read after it, or `NotEmitted`. -/
inductive Classified where
  | command (c : Command) (writeBytes readBytes : Nat)
  | notEmitted
  deriving DecidableEq, Repr

/-- Why a list of bytes is not the beginning of a frame the block emits. -/
inductive DecodeError where
  | noByte
  | notEmitted (b : Byte)
  | tooShort (b : Byte)
  deriving DecidableEq, Repr

/-- The command of a byte that is no register opcode (R70). -/
def classifyFixed (O : OpcodeSet) (b : Byte) : Classified :=
  if b = O.runBase ∨ b = O.runBase ||| O.dirMask then .command .run Machine.motionBytes 0
  else if b = O.moveBase ∨ b = O.moveBase ||| O.dirMask then .command .move Machine.motionBytes 0
  else if b = O.softStop then .command .softStop 0 0
  else if b = O.hardStop then .command .hardStop 0 0
  else if b = O.softHiZ then .command .softHiZ 0 0
  else if b = O.hardHiZ then .command .hardHiZ 0 0
  else if b = O.resetDevice then .command .resetDevice 0 0
  else if b = O.getStatus then .command .getStatus 0 Machine.statusBytes
  else .notEmitted

/-- R70: the command of an opcode byte and the byte counts after it, from the byte, P and O alone. -/
def classify (P : Profile) (O : OpcodeSet) (b : Byte) : Classified :=
  if b = O.nop then .command .nop 0 0
  else
    match Machine.regBytes P b.toNat with
    | .ok n => .command (.setParam b.toNat) n 0
    | .error _ =>
      if b.toNat / 0x20 = 1 then
        match Machine.regBytes P (b.toNat % 0x20) with
        | .ok n => .command (.getParam (b.toNat % 0x20)) 0 n
        | .error _ => classifyFixed O b
      else classifyFixed O b

/-- The signed argument of a motion frame: the direction bit of its opcode and its magnitude bytes (R63, R66, R68). Zero
magnitude with the negative direction is the frame of `-2^24` (log 11). -/
def motionArgument (O : OpcodeSet) (b : Byte) (args : List Byte) : Int :=
  let m : Nat := Machine.decodeBE args
  if ((b &&& O.dirMask) != 0#8) = O.dirNonneg then (m : Int) else if m = 0 then -2 ^ 24 else -(m : Int)

/-- The operation of a classified frame, its operands read from its opcode byte and its argument bytes. -/
def assemble (O : OpcodeSet) (c : Command) (b : Byte) (args : List Byte) : Instr :=
  match c with
  | .nop => .nop
  | .setParam a => .setParam a (Machine.decodeBE args : Nat)
  | .getParam a => .getParam a
  | .run => .run (motionArgument O b args)
  | .move => .move (motionArgument O b args)
  | .softStop => .softStop
  | .hardStop => .hardStop
  | .softHiZ => .softHiZ
  | .hardHiZ => .hardHiZ
  | .resetDevice => .resetDevice
  | .getStatus => .getStatus

/-- Read one operation from the front of a list of host-to-chip bytes, and give the bytes after its frame. The length
comes from the opcode byte and P alone (R70). -/
def decode (P : Profile) (O : OpcodeSet) : List Byte → Except DecodeError (Instr × List Byte)
  | [] => .error .noByte
  | b :: rest =>
    match classify P O b with
    | .notEmitted => .error (.notEmitted b)
    | .command c n _ =>
      if rest.length < n then .error (.tooShort b) else .ok (assemble O c b (rest.take n), rest.drop n)

/-- The host-to-chip bytes of an operation, in wire order (R61): the opcode byte, then the argument bytes. -/
def encode (P : Profile) (O : OpcodeSet) (i : Instr) : Except Machine.TxError (List Byte) :=
  match Machine.encodeOp P O i with
  | .ok f => .ok (f.op :: f.args)
  | .error e => .error e

/-- The canonical motion argument with the same frame (R140, log 11). -/
def canonicalMotion (s : Int) : Int :=
  let m : Nat := s.natAbs % 2 ^ 24
  if 0 ≤ s then (m : Int) else if m = 0 then -2 ^ 24 else -(m : Int)

/-- The canonical operation with the same frame as `i` (R67, R68): the value masked, the magnitude truncated. -/
def canonical (P : Profile) : Instr → Instr
  | .nop => .nop
  | .setParam addr value =>
    match Machine.width P addr with
    | .ok w => .setParam addr (value % 2 ^ w)
    | .error _ => .setParam addr value
  | .getParam addr => .getParam addr
  | .run speed => .run (canonicalMotion speed)
  | .move steps => .move (canonicalMotion steps)
  | .softStop => .softStop
  | .hardStop => .hardStop
  | .softHiZ => .softHiZ
  | .hardHiZ => .hardHiZ
  | .resetDevice => .resetDevice
  | .getStatus => .getStatus

/-- The command `classify` should name for an operation (R70). -/
def commandOf : Instr → Command
  | .nop => .nop
  | .setParam addr _ => .setParam addr
  | .getParam addr => .getParam addr
  | .run _ => .run
  | .move _ => .move
  | .softStop => .softStop
  | .hardStop => .hardStop
  | .softHiZ => .softHiZ
  | .hardHiZ => .hardHiZ
  | .resetDevice => .resetDevice
  | .getStatus => .getStatus

/-- The bytes of a number `w`, the lowest eight bits first: a table word's first byte is its bits [7:0]. -/
def tableBytes (w : Nat) : Nat → List Byte
  | 0 => []
  | n + 1 => BitVec.ofNat 8 w :: tableBytes (w / 256) n

/-- The number of host-to-chip bytes of the longest frame (R61: an opcode byte and three argument bytes). -/
def longestFrame : Nat := 4

/-- An instruction given as a table word: `nbits` of `w`, whole bytes, and zero bytes up to the longest frame. -/
def tableFrame (nbits w : Nat) : List Byte :=
  tableBytes (w % 2 ^ nbits) (Nat.max ((nbits + 7) / 8) longestFrame)

/-- The operation the decoder reads from a word of spec/opcode_table.json, under the reference configuration. -/
def decodeTableWord (nbits w : Nat) : Option Instr :=
  match decode Machine.refA Machine.refO (tableFrame nbits w) with
  | .ok (i, _) => some i
  | .error _ => none

end Sys2Proof
end

