-- ==== Sys2Proof/Machine/State.lean ====
section
/-! DEFINITION. The state of the block and of the agents around it (spec/10_state.md R20 to R37, spec/60_exceptions.md R229,
spec/45_transaction.md R189), its value at reset (R37, R250), and the names of its faults and refusals. -/

namespace Sys2Proof.Machine

/-- R32: no frame is open, or the frame being exchanged. `frame` is meaningful only while Active, so it stands inside. -/
inductive Phase where
  | idle
  | active (frame : Frame)
  deriving DecidableEq, Repr

/-- Where the sequence of R181 stands with respect to the framing window (R180, R185; log 5): `shut`: FrameBegin has not
succeeded, chip-select deasserted; `opened`: between FrameBegin and FrameEnd; `failing e`: a primitive failed with `e`
in the open window, and the release FrameEnd is the next primitive. -/
inductive Window where
  | shut
  | opened
  | failing (e : Payload)
  deriving DecidableEq, Repr

/-- The four transport primitives, with the byte sent (R180). -/
inductive Prim where
  | frameBegin
  | txByte (b : Byte)
  | rxByte
  | frameEnd
  deriving DecidableEq, Repr

/-- One entry of the event history (R189): a primitive that returned ok, with its byte (`Begin`, `Tx b`, `Rx b`, `End` of
spec/95_test_vectors.md), or one that returned `TF(e)` (`X!e`). -/
inductive Event where
  | begin
  | tx (b : Byte)
  | rx (b : Byte)
  | close
  | failed (p : Prim) (e : Payload)
  deriving DecidableEq, Repr

/-- R201: what an operation returns on `rsp`. -/
inductive TransactionResult where
  | unit
  | value (n : Nat)
  | err (e : TxError)
  deriving DecidableEq, Repr

/-- How an operation stands on `req` (log 12): as its call (R8), as the host-to-chip bytes of its frame (read back by R70),
or as its spelling (R73). -/
inductive Form where
  | call (i : Instr)
  | wire (bs : List Byte)
  | spelled (text : String)
  deriving DecidableEq, Repr

/-- An operation a caller has issued (R8, R229). -/
structure Request where
  caller : Caller
  form : Form
  deriving DecidableEq, Repr

/-- A caller blocked at "wait until owner = none", with its frame (R181, R186). -/
structure Waiter where
  caller : Caller
  frame : Frame
  deriving DecidableEq, Repr

/-- The block never stops with a fault: its three errors are results (R220). The type has no constructor, so nothing can
raise one (log 9). -/
inductive Fault
  deriving DecidableEq, Repr

/-- Where the model answers no next state. Every one is a refusal the spec asks for, or a request that is no operation. -/
inductive Refusal where
  /-- An instruction without a meaning; raised by no arm of exec. Safe: the run stops. -/
  | notModelled (mnemonic : String)
  /-- U13, R70, R71: a wire frame whose first byte is no opcode the block emits; raised by reading a request. Safe. -/
  | notEmitted (b : Byte)
  /-- R60, R70: a wire frame without a byte, or with fewer or more argument bytes than its opcode takes; raised by reading
  a request. Safe. -/
  | malformedFrame (bs : List Byte)
  /-- U14, R72: a spelled operation outside the eleven; raised by reading a request. Safe. -/
  | noSuchOperation (name : String)
  /-- R73: a text that is not the spelling of an operation; raised by reading a request. Safe. -/
  | malformedSpelling (text : String)
  /-- U9, U10, R22, R65, R252: there is no block for an ill-formed P or O (log 15); raised by step. Safe. -/
  | notConstructed
  /-- U8, R167: statusFlag of a name the layout lacks; raised by statusFlag. Safe. -/
  | noSuchStatus (name : String)
  deriving DecidableEq, Repr

/-- The state: the configuration, the sequencer and the link lock (R20), and the callers, the transport and the record of
the run around them (R229, R189). -/
structure State where
  /-- P (R21); no step writes it (R94, R264). -/
  profile : Profile
  /-- O (R64); no step writes it (R264). -/
  opcodes : OpcodeSet
  /-- The sequencer's phase, with the frame in flight (R32). -/
  phase : Phase
  /-- Where the open frame stands with respect to its framing window (R181, R254). -/
  window : Window
  /-- The number of exchanges completed in the open frame (R32). -/
  pos : Nat
  /-- The response bytes received so far, in wire order (R32). -/
  rx : List Byte
  /-- The link lock (R33). -/
  owner : Option Caller
  /-- `req`: operations issued and not yet taken, oldest first (R8). -/
  requests : List Request
  /-- Callers waiting for the lock (R186), in no order that matters. -/
  waiting : List Waiter
  /-- The caller whose operation the present step encodes: `c` of R181. -/
  issuer : Caller
  /-- `rsp`: every result returned, oldest first (R8, R201). -/
  results : List (Caller × TransactionResult)
  /-- The event history, oldest first: the wire trace (R189). -/
  trace : List Event
  /-- The transport's next answers; after them, free values (R189, log 7). -/
  answers : List Answer
  /-- The free answers drawn so far (log 7). -/
  answerDraws : Nat
  /-- The next choices of which agent moves; after them, free values (R186, log 8). -/
  schedule : List Nat
  /-- The free choices drawn so far (log 8). -/
  scheduleDraws : Nat
  deriving DecidableEq, Repr

/-- The reset state of a block built from `P` and `O` (R37, R250, R254). -/
def State.init (P : Profile) (O : OpcodeSet) : State where
  profile := P
  opcodes := O
  phase := .idle
  window := .shut
  pos := 0
  rx := []
  owner := none
  requests := []
  waiting := []
  issuer := 0
  results := []
  trace := []
  answers := []
  answerDraws := 0
  schedule := []
  scheduleDraws := 0

/-- The state right after reset, for the reference Variant A and the reference opcode set (R28, R37, R64). -/
def State.reset : State := State.init refA refO

end Sys2Proof.Machine
end

