-- ==== Sys2Proof/Machine/Spelling.lean ====
section
/-! DEFINITION. The spelling of operations (spec/30_encoding.md R73): `name(arg, ...)`, an address as a numeral or a register
name of the profile's table (`NAME` or `NAME_ADDR`), integers as decimal or 0x hexadecimal numerals, optionally negative.
Spaces at the ends of the text, around an argument and between parentheses that hold no argument are let pass (log 13). -/

namespace Sys2Proof.Machine

/-- A text without the spaces at its two ends. -/
def trimSpaces (cs : List Char) : List Char :=
  ((cs.dropWhile (· == ' ')).reverse.dropWhile (· == ' ')).reverse

/-- The pieces of a text between commas. -/
def splitCommas : List Char → List (List Char)
  | [] => [[]]
  | c :: cs =>
    match splitCommas cs with
    | [] => [[c]]
    | piece :: rest => if c == ',' then [] :: piece :: rest else (c :: piece) :: rest

/-- The value of a digit in the given base. -/
def digitValue (base : Nat) (c : Char) : Option Nat :=
  let n := c.toNat
  let v := if 48 ≤ n ∧ n ≤ 57 then some (n - 48)
    else if 97 ≤ n ∧ n ≤ 102 then some (n - 87)
    else if 65 ≤ n ∧ n ≤ 70 then some (n - 55)
    else none
  v.filter (fun d => decide (d < base))

/-- The value of a list of digits read after `acc`. -/
def digitsValue (base : Nat) (acc : Nat) : List Char → Option Nat
  | [] => some acc
  | c :: cs =>
    match digitValue base c with
    | some d => digitsValue base (acc * base + d) cs
    | none => none

/-- A natural numeral: decimal, or 0x and hexadecimal digits. -/
def parseNat : List Char → Option Nat
  | [] => none
  | '0' :: 'x' :: ds => if ds.isEmpty then none else digitsValue 16 0 ds
  | ds => digitsValue 10 0 ds

/-- An integer numeral: a natural numeral, or `-` and one. -/
def parseInt : List Char → Option Int
  | '-' :: ds => (parseNat ds).map (fun n => -(n : Int))
  | ds => (parseNat ds).map (fun n => (n : Int))

/-- The address of the register a profile names so (R73): `NAME` or `NAME_ADDR`. The lowest address counts where a text is
the name of several, the model's choice (log 13). -/
def addrOfName (P : Profile) (name : String) : Option Nat :=
  (P.rows.findIdx? (fun row => row.name == name || row.name ++ "_ADDR" == name)).map (· + 1)

/-- `<addr>` of R73: a numeral, else a register name. That a text which is a numeral counts as one although a register has
it as its name is the model's choice (log 13). -/
def parseAddr (P : Profile) (cs : List Char) : Option Nat :=
  match parseNat cs with
  | some a => some a
  | none => addrOfName P (String.ofList cs)

/-- The names of the eleven operations (R73). -/
def operationNames : List String :=
  ["nop", "setParam", "getParam", "run", "move", "softStop", "hardStop", "softHiZ", "hardHiZ", "resetDevice", "getStatus"]

/-- The operation of a name and its argument texts, if they are one of R73's forms. -/
def operationOf (P : Profile) (name : String) (args : List (List Char)) : Option Instr :=
  match args with
  | [] =>
    if name = "nop" then some .nop
    else if name = "softStop" then some .softStop
    else if name = "hardStop" then some .hardStop
    else if name = "softHiZ" then some .softHiZ
    else if name = "hardHiZ" then some .hardHiZ
    else if name = "resetDevice" then some .resetDevice
    else if name = "getStatus" then some .getStatus
    else none
  | [a] =>
    if name = "getParam" then (parseAddr P a).map .getParam
    else if name = "run" then (parseInt a).map .run
    else if name = "move" then (parseInt a).map .move
    else none
  | [a, v] =>
    if name = "setParam" then
      match parseAddr P a, parseInt v with
      | some addr, some value => some (.setParam addr value)
      | _, _ => none
    else none
  | _ => none

/-- The text between the parentheses of `(…)`, none for any other text. -/
def insideParens : List Char → Option (List Char)
  | '(' :: body =>
    match body.reverse with
    | ')' :: inner => some inner.reverse
    | _ => none
  | _ => none

/-- R73: read the spelling of an operation. A name outside the eleven is refused by name (R72, U14).
Spaces alone between the parentheses are no argument, the model's choice (log 13). -/
def parseOp (P : Profile) (text : String) : Except Refusal Instr :=
  let cs := trimSpaces text.toList
  let name := String.ofList (cs.takeWhile (· != '('))
  match insideParens (cs.dropWhile (· != '(')) with
  | none => .error (.malformedSpelling text)
  | some inner =>
    let args := if (trimSpaces inner).isEmpty then [] else (splitCommas inner).map trimSpaces
    if operationNames.contains name then
      match operationOf P name args with
      | some i => .ok i
      | none => .error (.malformedSpelling text)
    else .error (.noSuchOperation name)

end Sys2Proof.Machine
end

