-- ==== Sys2Proof/Machine/Agents.lean ====
section
/-! DEFINITION. The agents and the order in which they move (spec/60_exceptions.md R229, spec/20_memory.md R52,
spec/45_transaction.md R186, spec/92_eei_decisions.md D28), reading a request, and building a block
(spec/70_reset_and_hazards.md R251). -/

namespace Sys2Proof.Machine

/-- What can happen next: a caller's operation is taken from `req` and encoded, a waiting caller takes the lock, or the
sequencer issues its next primitive. -/
inductive Move where
  | issue (k : Nat)
  | grant (k : Nat)
  | primitive
  deriving DecidableEq, Repr

/-- R229, R52: a caller is blocked from the taking of its operation to its result. -/
def callerFree (s : State) (c : Caller) : Bool :=
  s.owner != some c && s.waiting.all (fun w => w.caller != c)

/-- Request `k` can be taken: its caller is not blocked and issued nothing before it that is still there (R52). -/
def issuable (s : State) (k : Nat) : Bool :=
  match s.requests[k]? with
  | some r => callerFree s r.caller && (s.requests.take k).all (fun q => q.caller != r.caller)
  | none => false

/-- Every move that is possible in a state. Any of them may be the next (D28). -/
def moves (s : State) : List Move :=
  ((List.range s.requests.length).filter (issuable s)).map .issue
    ++ (if s.owner = none then (List.range s.waiting.length).map .grant else [])
    ++ (match s.phase with
        | .active _ => [.primitive]
        | .idle => [])

/-- The number that decides among several possible moves: the given one, or a free value (log 8). -/
def nextChoice (s : State) : Nat :=
  match s.schedule with
  | k :: _ => k
  | [] => Config.freeChoice s.scheduleDraws

/-- That number is used up (log 8). -/
def dropChoice (s : State) : State :=
  match s.schedule with
  | _ :: rest => { s with schedule := rest }
  | [] => { s with scheduleDraws := s.scheduleDraws + 1 }

/-- The move that is next; none when nothing can happen (every caller idle and no frame in flight). -/
def chosen (s : State) : Option Move :=
  match moves s with
  | [] => none
  | [m] => some m
  | ms => ms[nextChoice s % ms.length]?

/-- The state after the choice: a choice is used up only where there is one. -/
def afterChoice (s : State) : State :=
  match moves s with
  | [] => s
  | [_] => s
  | _ => dropChoice s

/-- The operation a request stands for, or the refusal of one that stands for none (R70, R72, R73). -/
def readForm (P : Profile) (O : OpcodeSet) : Form → Except Refusal Instr
  | .call i => .ok i
  | .wire bs =>
    match decode P O bs with
    | .ok (i, []) => .ok i
    | .ok (_, _ :: _) => .error (.malformedFrame bs)
    | .error (.notEmitted b) => .error (.notEmitted b)
    | .error .noByte => .error (.malformedFrame bs)
    | .error (.tooShort _) => .error (.malformedFrame bs)
  | .spelled text => parseOp P text

/-- Take request `k` from `req`: its caller becomes the issuer. -/
def takeRequest (k : Nat) (r : Request) (s : State) : State :=
  { s with requests := s.requests.eraseIdx k, issuer := r.caller }

/-- R8: a caller issues an operation on `req`. The outside world may do so between any two steps. -/
def State.issue (c : Caller) (form : Form) (s : State) : State :=
  { s with requests := s.requests ++ [⟨c, form⟩] }

/-- R22, R65, R252: the configuration is one a block may be built from. -/
def configured (s : State) : Bool := configWf s.profile s.opcodes

/-- Why a block cannot be built (R93, R65). -/
inductive BootError where
  | profile (e : ProfileError)
  | opcodeSet
  deriving DecidableEq, Repr

/-- R251: construct and validate P, then O, then bring the block to the reset state. -/
def boot (variant : Variant) (N : Nat) (table : List (Nat × RegisterRow)) (layout : List LayoutEntry) (O : OpcodeSet) :
    Except BootError State :=
  match makeProfile variant N table layout with
  | .error e => .error (.profile e)
  | .ok P => if opcodesWf P O then .ok (State.init P O) else .error .opcodeSet

/-- A caller that has issued nothing and waits for nothing. -/
def freshCaller (s : State) : Caller :=
  ((s.owner.toList ++ s.waiting.map Waiter.caller ++ s.requests.map Request.caller).foldl Nat.max 0) + 1

/-- The first frame of a list of bytes, by the length its opcode byte gives (R70); only the opcode byte where it gives
none. -/
def firstFrame (P : Profile) (O : OpcodeSet) : List Byte → List Byte
  | [] => []
  | b :: rest =>
    match classify P O b with
    | .command _ n _ => b :: rest.take n
    | .notEmitted => [b]

/-- Put a wire frame where the very next step takes it: first on `req`, from a caller of its own, and chosen where there is a
choice (log 12). -/
def presentFrame (bs : List Byte) (s : State) : State :=
  let t := { s with requests := ⟨freshCaller s, .wire (firstFrame s.profile s.opcodes bs)⟩ :: s.requests }
  match moves t with
  | _ :: _ :: _ => { t with schedule := 0 :: t.schedule }
  | _ => t

end Sys2Proof.Machine
end

