-- ==== Sys2Proof/Machine/Ops.lean ====
section
/-! DEFINITION. The shared operations: returning a result, the response decoder (spec/46_response_decoder.md R200), the link
lock (spec/45_transaction.md R186), the frame sequence one primitive at a time (R181, R189), and ending an operation in an
error (spec/60_exceptions.md R225, R226). -/

namespace Sys2Proof.Machine

/-- R200: decode a received response. -/
def decodeResponse (bs : List Byte) : TransactionResult :=
  if bs.length = 0 then .unit
  else if bs.length ≤ maxRspBytes then .value (decodeBE bs)
  else .err (.unsupportedResponseWidth bs.length)

/-- Return a result to a caller on `rsp` (R8, R201). -/
def deliver (c : Caller) (r : TransactionResult) (s : State) : State := { s with results := s.results ++ [(c, r)] }

/-- R221, R183: an operation that the encoder refuses ends in an error at once: no primitive, no lock; the sequencer, which
may hold another caller's frame, is untouched. -/
def reject (e : TxError) (s : State) : State := deliver s.issuer (.err e) s

/-- The entry of R181: `c` takes the lock and its frame becomes the one in flight, before FrameBegin. -/
def openTransaction (c : Caller) (f : Frame) (s : State) : State :=
  { s with owner := some c, phase := .active f, window := .shut, pos := 0, rx := [] }

/-- R186: the issuing caller waits for the lock with its frame. -/
def waitForLock (f : Frame) (s : State) : State := { s with waiting := s.waiting ++ [⟨s.issuer, f⟩] }

/-- R186: waiting caller `k` waits no longer. -/
def dropWaiter (k : Nat) (s : State) : State := { s with waiting := s.waiting.eraseIdx k }

/-- R181, R186: hand a frame to the sequencer for the issuing caller. The test of the lock and its taking are one step; a
caller that finds the lock held waits. -/
def transact (f : Frame) (s : State) : State :=
  match s.owner with
  | none => openTransaction s.issuer f s
  | some _ => waitForLock f s

/-- The encoder's outcome (R183, R224): an error before any exchange, or a frame to exchange. -/
def submit (r : Except TxError Frame) (s : State) : State :=
  match r with
  | .ok f => transact f s
  | .error e => reject e s

/-- R181, R225: every path that ends a transaction brings the sequencer and the lock back to their reset values. -/
def release (s : State) : State :=
  { s with phase := .idle, window := .shut, pos := 0, rx := [], owner := none }

/-- End the transaction in flight and return `r` to its caller (no caller: log 19). -/
def finish (r : TransactionResult) (s : State) : State :=
  match s.owner with
  | some c => deliver c r (release s)
  | none => release s

/-- R225, R226: the transaction in flight ends in TransportFailure(e) (R184, R223): the sequencer and the lock are released,
received bytes are discarded, the caller gets the error, and the block is ready at once. -/
def endInFailure (e : Payload) (s : State) : State := finish (.err (.transportFailure e)) s

/-- R186, D28: a waiting caller takes the free lock. -/
def grant (k : Nat) (s : State) : State :=
  match s.waiting[k]? with
  | some w => openTransaction w.caller w.frame (dropWaiter k s)
  | none => s

/-- R32: the exchange after `pos` completed ones: the opcode, then the argument bytes, or the response bytes, then none. -/
def nextExchange (f : Frame) (pos : Nat) : Prim :=
  if pos = 0 then .txByte f.op
  else
    match f.args[pos - 1]? with
    | some b => .txByte b
    | none => if pos < exchangeCount f then .rxByte else .frameEnd

/-- R181: the primitive the sequencer issues next for the frame in flight. -/
def nextPrim (f : Frame) (s : State) : Prim :=
  match s.window with
  | .shut => .frameBegin
  | .opened => nextExchange f s.pos
  | .failing _ => .frameEnd

/-- The event of a primitive that returned ok (R189). -/
def okEvent (p : Prim) (b : Byte) : Event :=
  match p with
  | .frameBegin => .begin
  | .txByte c => .tx c
  | .rxByte => .rx b
  | .frameEnd => .close

/-- Add an event to the history (R189). -/
def record (e : Event) (s : State) : State := { s with trace := s.trace ++ [e] }

/-- Move to another place of the sequence with respect to the framing window (R181, R185). -/
def setWindow (w : Window) (s : State) : State := { s with window := w }

/-- R32: one exchange more is completed. -/
def countExchange (s : State) : State := { s with pos := s.pos + 1 }

/-- R32: one response byte more is received, and its exchange completed. -/
def receive (b : Byte) (s : State) : State := { s with pos := s.pos + 1, rx := s.rx ++ [b] }

/-- R181, D18: the window is closed. After a whole frame the response decoder gives the result (R202, R203); after a failure
it is that first failure, whatever FrameEnd itself answered (logs 16, 17). -/
def closeFrame (s : State) : State :=
  match s.window with
  | .failing e => endInFailure e s
  | _ => finish (decodeResponse s.rx) s

/-- R181: the effect of a primitive that returned ok; `b` is the byte read. -/
def primitiveOk (p : Prim) (b : Byte) (s : State) : State :=
  match p with
  | .frameBegin => setWindow .opened s
  | .txByte _ => countExchange s
  | .rxByte => receive b s
  | .frameEnd => closeFrame s

/-- R181, R185: the effect of a primitive that returned `TF(e)`. A failed FrameBegin opened nothing, so no FrameEnd follows
(D34); a failed exchange leads to the release FrameEnd; a failed FrameEnd is the failure, unless one came before (D18). -/
def primitiveFailed (p : Prim) (e : Payload) (s : State) : State :=
  match p with
  | .frameBegin => endInFailure e s
  | .txByte _ => setWindow (.failing e) s
  | .rxByte => setWindow (.failing e) s
  | .frameEnd =>
    match s.window with
    | .failing first => endInFailure first s
    | _ => endInFailure e s

/-- The transport's next answer: the given one, or a free value (R189, log 7). -/
def nextAnswer (s : State) : Answer :=
  match s.answers with
  | a :: _ => a
  | [] => Config.freeAnswer s.answerDraws

/-- The transport's next answer is used up (log 7). -/
def dropAnswer (s : State) : State :=
  match s.answers with
  | _ :: rest => { s with answers := rest }
  | [] => { s with answerDraws := s.answerDraws + 1 }

/-- What one answer to the primitive `p` does (R181). While the primitive has not returned, nothing changes (R188). -/
def applyAnswer (p : Prim) (a : Answer) (s : State) : State :=
  match a with
  | .ok b => primitiveOk p b (record (okEvent p b) s)
  | .fail e => primitiveFailed p e (record (.failed p e) s)
  | .notYet => s

/-- R189: one step of the sequencer, one primitive of the frame in flight. -/
def advance (s : State) : State :=
  match s.phase with
  | .idle => s
  | .active f => applyAnswer (nextPrim f s) (nextAnswer s) (dropAnswer s)

end Sys2Proof.Machine
end

