-- ==== Sys2Proof/Machine/FixedCommands.lean ====
section
/-! DEFINITION. The fixed commands (spec/44_fixed_commands.md R160 to R166). -/

namespace Sys2Proof.Machine

/-- The shared sequence of the commands with a fixed opcode and no other byte (spec/44_fixed_commands.md, `fixedCmd`). -/
def fixedCmd (op : Byte) (s : State) : Host.Outcome State Fault Refusal := .next (transact (fixedFrame op) s)

/-- R160: nop. -/
def execNop (s : State) : Host.Outcome State Fault Refusal := fixedCmd s.opcodes.nop s

/-- R161: softStop. -/
def execSoftStop (s : State) : Host.Outcome State Fault Refusal := fixedCmd s.opcodes.softStop s

/-- R162: hardStop. -/
def execHardStop (s : State) : Host.Outcome State Fault Refusal := fixedCmd s.opcodes.hardStop s

/-- R163: softHiZ. -/
def execSoftHiZ (s : State) : Host.Outcome State Fault Refusal := fixedCmd s.opcodes.softHiZ s

/-- R164: hardHiZ. -/
def execHardHiZ (s : State) : Host.Outcome State Fault Refusal := fixedCmd s.opcodes.hardHiZ s

/-- R165: resetDevice. It resets the chip, not the block. -/
def execResetDevice (s : State) : Host.Outcome State Fault Refusal := fixedCmd s.opcodes.resetDevice s

/-- R166: getStatus. -/
def execGetStatus (s : State) : Host.Outcome State Fault Refusal := .next (transact (getStatusFrame s.opcodes) s)

end Sys2Proof.Machine
end

