-- ==== Sys2Proof/Machine/Motion.lean ====
section
/-! DEFINITION. The motion commands (spec/43_motion.md R141, R142). -/

namespace Sys2Proof.Machine

/-- R141: run. -/
def execRun (speed : Int) (s : State) : Host.Outcome State Fault Refusal :=
  .next (transact (motionFrame s.opcodes s.opcodes.runBase speed) s)

/-- R142: move. -/
def execMove (steps : Int) (s : State) : Host.Outcome State Fault Refusal :=
  .next (transact (motionFrame s.opcodes s.opcodes.moveBase steps) s)

end Sys2Proof.Machine
end

