-- ==== Sys2Proof/Machine/RegisterAccess.lean ====
section
/-! DEFINITION. The register access commands (spec/42_register_access.md R120 to R124). -/

namespace Sys2Proof.Machine

/-- R120: setParam. -/
def execSetParam (addr : Nat) (value : Int) (s : State) : Host.Outcome State Fault Refusal :=
  .next (submit (setParamFrame s.profile addr value) s)

/-- R121: getParam. -/
def execGetParam (addr : Nat) (s : State) : Host.Outcome State Fault Refusal :=
  .next (submit (getParamFrame s.profile s.opcodes addr) s)

end Sys2Proof.Machine
end

