-- ==== Sys2Proof/Machine/Dispatch.lean ====
section
/-! DEFINITION. The meaning of every operation: its encode computation, and its hand-over to the sequencer (spec/00_scope.md
R7, spec/45_transaction.md R181). -/

namespace Sys2Proof.Machine

def exec (i : Instr) (s : State) : Host.Outcome State Fault Refusal :=
  match i with
  | .nop => Sys2Proof.Machine.execNop s
  | .setParam addr value => Sys2Proof.Machine.execSetParam addr value s
  | .getParam addr => Sys2Proof.Machine.execGetParam addr s
  | .run speed => Sys2Proof.Machine.execRun speed s
  | .move steps => Sys2Proof.Machine.execMove steps s
  | .softStop => Sys2Proof.Machine.execSoftStop s
  | .hardStop => Sys2Proof.Machine.execHardStop s
  | .softHiZ => Sys2Proof.Machine.execSoftHiZ s
  | .hardHiZ => Sys2Proof.Machine.execHardHiZ s
  | .resetDevice => Sys2Proof.Machine.execResetDevice s
  | .getStatus => Sys2Proof.Machine.execGetStatus s

end Sys2Proof.Machine
end

