-- ==== Sys2Proof/Machine/Step.lean ====
section
/-! DEFINITION. One step of the machine (spec/00_scope.md R7, spec/45_transaction.md R189): one encode computation, one taking
of the lock by a waiting caller, or one primitive of the frame in flight. -/

namespace Sys2Proof.Machine

/-- Take request `k`, read it and run its operation. A request that stands for no operation refuses the whole step, also while
another caller's frame is in flight, so the run stops there: the model's choice (log 12), since the spec says only that such
a form is refused (R72, U13, U14). -/
def runRequest (k : Nat) (s : State) : Host.Outcome State Fault Refusal :=
  match s.requests[k]? with
  | some r =>
    match readForm s.profile s.opcodes r.form with
    | .ok i => exec i (takeRequest k r s)
    | .error e => .refused e
  | none => .next s

/-- Carry out a move. -/
def runMove (m : Move) (s : State) : Host.Outcome State Fault Refusal :=
  match m with
  | .issue k => runRequest k s
  | .grant k => .next (grant k s)
  | .primitive => .next (advance s)

/-- One step. There is no step of an unconstructed block (R252); where nothing can happen, nothing changes (log 14). -/
def step (s : State) : Host.Outcome State Fault Refusal :=
  if configured s then
    match chosen s with
    | some m => runMove m (afterChoice s)
    | none => .next s
  else .refused .notConstructed

/-- `s` with a table word's instruction as the request that the next step takes (log 12). -/
def State.withFetchWord (s : State) (nbits w : Nat) : State := presentFrame (tableFrame nbits w) s

end Sys2Proof.Machine
end

