-- ==== Sys2Proof/Safety.lean ====
section
/-! DEFINITION. What a safe run is (spec/10_state.md R32 to R34, spec/20_memory.md R47, R51 to R53,
spec/70_reset_and_hazards.md R255 to R257): the wire trace is a sequence of whole, unmixed frames, and the sequencer, the
lock and the trace agree. -/

namespace Sys2Proof.Safety

open Sys2Proof.Machine

/-- The link as the chip sees it (R34): chip-select deasserted, or a window with `n` exchanges in it (the chip's byte-position
counter), in which bytes have been read or not; or a window with `n` exchanges in which a primitive has failed. -/
inductive Link where
  | closed
  | opened (n : Nat) (reading : Bool)
  | failed (n : Nat)
  deriving DecidableEq, Repr

/-- The link after one event, none where the event breaks the order of a frame (R51): nothing is exchanged outside a window,
the opcode comes first, argument and response bytes do not mix, and after a failure only the release comes (R185). -/
def linkStep : Link → Event → Option Link
  | .closed, .begin => some (.opened 0 false)
  | .closed, .failed .frameBegin _ => some .closed
  | .opened n false, .tx _ => some (.opened (n + 1) false)
  | .opened n reading, .rx _ => if reading || n == 1 then some (.opened (n + 1) true) else none
  | .opened n _, .close => if n == 0 then none else some .closed
  | .opened n false, .failed (.txByte _) _ => some (.failed n)
  | .opened n reading, .failed .rxByte _ => if reading || n == 1 then some (.failed n) else none
  | .opened n _, .failed .frameEnd _ => if n == 0 then none else some .closed
  | .failed _, .close => some .closed
  | .failed _, .failed .frameEnd _ => some .closed
  | _, _ => none

/-- The link after a trace, none where some event breaks the order of a frame. -/
def linkAfter (trace : List Event) : Option Link :=
  trace.foldl (fun l e => l.bind (fun k => linkStep k e)) (some .closed)

/-- The link that the sequencer's own state says there is (R34: the two counters go in step). -/
def linkOf (s : State) : Link :=
  match s.phase, s.window with
  | .active _, .opened => .opened s.pos (!s.rx.isEmpty)
  | .active _, .failing _ => .failed s.pos
  | _, _ => .closed

/-- R32, R33, R37: the sequencer and the lock agree: Idle means the reset values (R225), Active means a held lock, a frame
of R60 and a position within it, with as many response bytes as it says. -/
def sequencerOk (s : State) : Bool :=
  match s.phase with
  | .idle => s.owner.isNone && s.window == .shut && decide (s.pos = 0) && s.rx.isEmpty
  | .active f =>
    s.owner.isSome && frameWf f && decide (s.pos ≤ exchangeCount f)
      && decide (s.rx.length = s.pos - (1 + f.args.length)) && (s.window != .shut || decide (s.pos = 0))

/-- R52, R186, R229: every waiting caller has a frame of R60, waits once, and does not hold the lock. -/
def waitersOk (s : State) : Bool :=
  s.waiting.all (fun w => frameWf w.frame && s.owner != some w.caller) && decide (s.waiting.map Waiter.caller).Nodup

/-- The bytes a whole frame sends, in wire order (R61). -/
def sentBytes (f : Frame) : List Byte := f.op :: f.args

/-- The exchanges of a frame (R181): the opcode, the write path, the read path. -/
def exchangePrims (f : Frame) : List Prim :=
  .txByte f.op :: (f.args.map .txByte ++ List.replicate f.rspLen .rxByte)

/-- The events of a whole frame of `f` whose response bytes are `rs` (R51, R182). -/
def frameEvents (f : Frame) (rs : List Byte) : List Event :=
  .begin :: .tx f.op :: (f.args.map .tx ++ rs.map .rx ++ [.close])

/-- The events of a window of `f` from FrameBegin to the end of its first `n` exchanges, of which the reads gave `rs`. -/
def windowEvents (f : Frame) (n : Nat) (rs : List Byte) : List Event :=
  .begin :: (((sentBytes f).take n).map .tx ++ rs.map .rx)

/-- Everything a transaction of `f` that has ended may have left on the wire (R181, R185): the whole frame; a FrameBegin that
failed; a window cut off by its failed exchange `p`, with its release; a window whose FrameEnd failed. -/
inductive FrameTrace (f : Frame) : List Event → Prop
  | whole (rs : List Byte) : rs.length = f.rspLen → FrameTrace f (frameEvents f rs)
  | unopened (e : Payload) : FrameTrace f [.failed .frameBegin e]
  | cut (n : Nat) (rs : List Byte) (p : Prim) (e : Payload) (last : Event) :
      (exchangePrims f)[n]? = some p → rs.length = n - (1 + f.args.length) →
      (last = .close ∨ ∃ e2, last = .failed .frameEnd e2) →
      FrameTrace f (windowEvents f n rs ++ [.failed p e, last])
  | unclosed (rs : List Byte) (e : Payload) : rs.length = f.rspLen →
      FrameTrace f (windowEvents f (exchangeCount f) rs ++ [.failed .frameEnd e])

/-- `f` is the frame of some operation (R71, R72, R74). -/
def Emitted (P : Profile) (O : OpcodeSet) (f : Frame) : Prop := ∃ i, encodeOp P O i = .ok f

/-- A wire trace that is one ended transaction after another, each of the frame of some operation (R47, R52, R255). -/
inductive FramesTrace (P : Profile) (O : OpcodeSet) : List Event → Prop
  | nil : FramesTrace P O []
  | next {past events : List Event} {f : Frame} : FramesTrace P O past → Emitted P O f → FrameTrace f events →
      FramesTrace P O (past ++ events)

/-- The events of the frame in flight up to now: in the open window they are those of the frame's first `pos` exchanges; after
a failure, those and the failed exchange; before FrameBegin has succeeded, none. -/
def InProgress (s : State) (events : List Event) : Prop :=
  match s.phase, s.window with
  | .active f, .opened => events = windowEvents f s.pos s.rx
  | .active f, .failing e =>
    ∃ p, (exchangePrims f)[s.pos]? = some p ∧ events = windowEvents f s.pos s.rx ++ [.failed p e]
  | _, _ => events = []

/-- R47, R51, R52, R255: the whole wire is ended transactions, and after them the frame in flight. -/
def WireOk (s : State) : Prop :=
  ∃ past events, FramesTrace s.profile s.opcodes past ∧ InProgress s events ∧ s.trace = past ++ events

/-- The frame in flight and every waiting frame is the frame of some operation (R71, R72): no other opcode reaches the
wire. -/
def FramesEncoded (s : State) : Prop :=
  (∀ f, s.phase = .active f → Emitted s.profile s.opcodes f) ∧ ∀ w ∈ s.waiting, Emitted s.profile s.opcodes w.frame

/-- The invariant of a block: it is constructed (R252), its sequencer and waiting callers are as above, the chip's
byte-position counter is the sequencer's (R34), and the wire is whole frames of operations, byte for byte, and then the
frame in flight (R47, R51, R71). -/
def Inv (s : State) : Prop :=
  configured s = true ∧ sequencerOk s = true ∧ waitersOk s = true ∧ linkAfter s.trace = some (linkOf s)
    ∧ FramesEncoded s ∧ WireOk s

/-- A layout entry covers a bit of the status word (R29): a flag its bit, a field the bits `hi` down to `lo`. -/
def Covers : LayoutEntry → Nat → Prop
  | .flag _ bit _, b => b = bit
  | .field _ hi lo _, b => lo ≤ b ∧ b ≤ hi

/-- A state between transactions: Idle with the lock free (R226, R254). -/
def Ready (s : State) : Prop :=
  s.phase = .idle ∧ s.window = .shut ∧ s.pos = 0 ∧ s.rx = [] ∧ s.owner = none

/-- `n` primitives of the sequencer (R189). -/
def advances : Nat → State → State
  | 0, s => s
  | n + 1, s => advances n (advance s)

/-- The answers with which a transport completes frame `f`: ok to FrameBegin, to each byte sent, to each read with the bytes
`rs`, and to FrameEnd. The bytes `x` of the other answers are looked at by nothing. -/
def okAnswers (f : Frame) (x : Byte) (rs : List Byte) : List Answer :=
  List.replicate (2 + f.args.length) (.ok x) ++ rs.map .ok ++ [.ok x]

/-- What a list of primitives comes to under a list of answers (R181): the events, the bytes read, the first failure, and the
answers left. -/
structure Exchanged where
  events : List Event
  rx : List Byte
  failure : Option Payload
  rest : List Answer
  deriving DecidableEq, Repr

/-- Issue primitives in order until one fails (R181); none where the answers run out first. -/
def exchange : List Answer → List Prim → Option Exchanged
  | answers, [] => some ⟨[], [], none, answers⟩
  | [], _ :: _ => none
  | .notYet :: answers, p :: ps => exchange answers (p :: ps)
  | .fail e :: answers, p :: _ => some ⟨[.failed p e], [], some e, answers⟩
  | .ok b :: answers, p :: ps =>
    match exchange answers ps with
    | some x => some { x with events := okEvent p b :: x.events, rx := if p = .rxByte then b :: x.rx else x.rx }
    | none => none

/-- What a transaction comes to: its events, its result, and the answers left. -/
structure Transacted where
  events : List Event
  result : TransactionResult
  rest : List Answer
  deriving DecidableEq, Repr

/-- The result of a transaction after its exchanges and its FrameEnd: the first failure, or the decoded response (R181, D18,
R203). -/
def resultOf (exchanges ending : Exchanged) : TransactionResult :=
  match exchanges.failure, ending.failure with
  | some e, _ => .err (.transportFailure e)
  | none, some e => .err (.transportFailure e)
  | none, none => decodeResponse exchanges.rx

/-- The pseudocode of R181 as one function of the frame and the transport's answers: FrameBegin (nothing follows its failure,
D34), the exchanges up to the first failure, FrameEnd on either path. None where the transport does not return. -/
def transaction (f : Frame) (answers : List Answer) : Option Transacted :=
  match exchange answers [.frameBegin] with
  | none => none
  | some begun =>
    match begun.failure with
    | some e => some ⟨begun.events, .err (.transportFailure e), begun.rest⟩
    | none =>
      match exchange begun.rest (exchangePrims f) with
      | none => none
      | some x =>
        match exchange x.rest [.frameEnd] with
        | none => none
        | some z => some ⟨begun.events ++ x.events ++ z.events, resultOf x z, z.rest⟩

/-- `s` after a whole transaction of caller `c`: its events on the wire, its result returned, the sequencer and the lock at
their reset values (R181, R225), and nothing else changed. -/
def settled (c : Caller) (x : Transacted) (s : State) : State :=
  { s with
    phase := .idle, window := .shut, pos := 0, rx := [], owner := none, trace := s.trace ++ x.events,
    results := s.results ++ [(c, x.result)], answers := x.rest }

/-- `s` with caller `c` holding the lock for frame `f`, no primitive issued yet (R181). -/
def locked (c : Caller) (f : Frame) (s : State) : State :=
  { s with owner := some c, phase := .active f, window := .shut, pos := 0, rx := [] }

/-- Operation `i` in state `s` IS the frame `f`: exec takes the lock for it; the sequencer then does what R181 says, whatever
the transport answers; and where every primitive returns ok, with the bytes `rs` read, exactly the frame's events follow
and the caller gets `result rs`. -/
def RunsFrame (i : Instr) (f : Frame) (result : List Byte → TransactionResult) (s : State) : Prop :=
  exec i s = .next (locked s.issuer f s)
    ∧ (∀ x, transaction f s.answers = some x →
        ∃ n, advances n (locked s.issuer f s) = settled s.issuer x s)
    ∧ (∀ b rs more, rs.length = f.rspLen → s.answers = okAnswers f b rs ++ more →
        advances (exchangeCount f + 2) (locked s.issuer f s)
          = settled s.issuer ⟨frameEvents f rs, result rs, more⟩ s)

end Sys2Proof.Safety
end

