-- ==== Sys2Proof/Laws/Layout.lean ====
section
/-! SUPPORT. What WF4 demands of a status layout (spec/10_state.md R22, R29). -/

namespace Sys2Proof.Machine

open Sys2Proof.Safety

/-- The bits listed for an entry are the bits it covers. -/
theorem mem_entryBits (e : LayoutEntry) (b : Nat) : b ∈ entryBits e ↔ Covers e b := by
  cases e with
  | flag _ bit _ => simp [entryBits, Covers]
  | field _ hi lo _ =>
    simp only [entryBits, Covers, List.mem_map, List.mem_range]
    constructor
    · rintro ⟨k, hk, rfl⟩
      omega
    · rintro ⟨h1, h2⟩
      exact ⟨b - lo, by omega, by omega⟩

theorem entryBits_nodup (e : LayoutEntry) : (entryBits e).Nodup := by
  cases e with
  | flag _ bit _ => simp [entryBits]
  | field _ hi lo _ => exact List.nodup_range.map fun _ _ h => Nat.add_left_cancel h

/-- A list of bits is not empty exactly where the entry covers some bit. -/
theorem entryBits_ne_nil (e : LayoutEntry) : entryBits e ≠ [] ↔ ∃ b, Covers e b := by
  simp only [← mem_entryBits]
  exact ⟨List.exists_mem_of_ne_nil _, fun ⟨b, hb⟩ h => by rw [h] at hb; cases hb⟩

/-- WF4: every entry covers a bit and only bits up to 15, and no two entries share one. -/
theorem layoutWf_iff (layout : List LayoutEntry) :
    layoutWf layout = true ↔
      (∀ e ∈ layout, (∃ b, Covers e b) ∧ ∀ b, Covers e b → b ≤ 15)
        ∧ layout.Pairwise (fun d e => ∀ b, ¬(Covers d b ∧ Covers e b)) := by
  have disjoint_iff : ∀ d e : LayoutEntry,
      List.Disjoint (entryBits d) (entryBits e) ↔ ∀ b, ¬(Covers d b ∧ Covers e b) := by
    intro d e
    simp only [List.Disjoint, mem_entryBits, not_and]
  have pairwise_iff : (layout.flatMap entryBits).Nodup ↔ layout.Pairwise (fun d e => ∀ b, ¬(Covers d b ∧ Covers e b)) := by
    rw [List.nodup_flatMap, and_iff_right fun e _ => entryBits_nodup e]
    exact List.Pairwise.iff fun {d e} => disjoint_iff d e
  simp only [layoutWf, Bool.and_eq_true, decide_eq_true_eq, pairwise_iff, List.all_eq_true, Bool.not_eq_true',
    List.isEmpty_eq_false_iff, entryBits_ne_nil, mem_entryBits]

end Sys2Proof.Machine
end

