-- ==== Sys2Proof/Laws/Codec.lean ====
section
/-! SUPPORT. Small lemmas of the register map, the byte codec and the response decoder. -/

namespace Sys2Proof.Machine

@[simp] theorem encodeNat_length (t n : Nat) : (encodeNat t n).length = n := by
  induction n with
  | zero => rfl
  | succ n ih => simp [encodeNat, ih]

@[simp] theorem encode_length (v : Int) (n : Nat) : (encode v n).length = n := by simp [encode]

@[simp] theorem decodeBE_nil : decodeBE [] = 0 := rfl

theorem valid_iff (P : Profile) (a : Nat) : valid P a = true ↔ 1 ≤ a ∧ a < P.N := by simp [valid]

/-- A width the map gives is that of a valid address. -/
theorem width_ok {P : Profile} {a w : Nat} (h : width P a = .ok w) :
    valid P a = true ∧ ∃ row, P.rows[a - 1]? = some row ∧ row.width = w := by
  unfold width at h
  split at h
  · split at h
    · rename_i hv _ row hr; exact ⟨hv, row, hr, by simpa using h⟩
    · cases h
  · cases h

/-- The only error of the map is InvalidRegister with the address asked for. -/
theorem width_error {P : Profile} {a : Nat} {e : TxError} (h : width P a = .error e) : e = .invalidRegister a := by
  unfold width at h
  split at h
  · split at h
    · cases h
    · simpa using h.symm
  · simpa using h.symm

theorem widthOk_iff (w : Nat) : widthOk w = true ↔ 4 ≤ w ∧ w ≤ 22 := by
  rw [widthOk, Bool.and_eq_true, decide_eq_true_eq, decide_eq_true_eq]
  rfl

/-- Every width of a well-formed profile is in [4, 22]. -/
theorem width_range {P : Profile} (hP : profileWf P = true) {a w : Nat} (h : width P a = .ok w) : 4 ≤ w ∧ w ≤ 22 := by
  obtain ⟨-, row, hr, rfl⟩ := width_ok h
  simp only [profileWf, Bool.and_eq_true, List.all_eq_true] at hP
  exact (widthOk_iff _).1 (hP.1.2 row (List.mem_of_getElem? hr))

theorem bytesNeeded_range {w : Nat} (h : 4 ≤ w ∧ w ≤ 22) : 1 ≤ bytesNeeded w ∧ bytesNeeded w ≤ 3 := by
  unfold bytesNeeded; omega

/-- A response of a length that a command can request is never refused. -/
theorem decodeResponse_of_le {bs : List Byte} (h : bs.length ≤ 3) :
    (bs = [] ∧ decodeResponse bs = .unit) ∨ (bs ≠ [] ∧ decodeResponse bs = .value (decodeBE bs)) := by
  cases bs with
  | nil => exact .inl ⟨rfl, rfl⟩
  | cons b bs =>
    refine .inr ⟨by simp, ?_⟩
    have h' : bs.length + 1 ≤ 3 := h
    simp [decodeResponse, maxRspBytes]; omega

/-- R60's conditions as propositions. -/
theorem frameWf_iff (f : Frame) :
    frameWf f = true ↔ f.args.length ≤ 3 ∧ f.rspLen ≤ 3 ∧ (f.args = [] ∨ f.rspLen = 0) := by
  rw [frameWf, Bool.and_eq_true, Bool.and_eq_true, Bool.or_eq_true, decide_eq_true_eq, decide_eq_true_eq,
    decide_eq_true_eq, List.isEmpty_iff, and_assoc]
  rfl

/-- The canonical range of a motion argument. -/
theorem motionWellFormed_iff (s : Int) : motionWellFormed s = true ↔ -16777216 ≤ s ∧ s < 16777216 := by
  rw [motionWellFormed, Bool.and_eq_true, decide_eq_true_eq, decide_eq_true_eq]
  norm_num

end Sys2Proof.Machine
end

