-- ==== Sys2Proof/Laws/OpcodeSet.lean ====
section
/-! SUPPORT. What O1 to O4 demand of an opcode set (spec/30_encoding.md R65). -/

namespace Sys2Proof.Machine

/-- O2's mask: it is `1 <<< i` for a bit `i` of the byte exactly where it has one bit set. -/
theorem oneBit_iff (m : Byte) :
    (List.range 8).any (fun i => m == 1#8 <<< i) = true ↔ ∃ i, ∀ j, m.getLsbD j = true ↔ j = i := by
  simp only [List.any_eq_true, List.mem_range, beq_iff_eq]
  constructor
  · rintro ⟨i, hi, rfl⟩
    refine ⟨i, fun j => ?_⟩
    simp only [BitVec.getLsbD_shiftLeft, BitVec.getLsbD_one]
    simp
    omega
  · rintro ⟨i, h⟩
    have hi : i < 8 := BitVec.lt_of_getLsbD ((h i).2 rfl)
    refine ⟨i, hi, BitVec.eq_of_getLsbD_eq fun j hj => Bool.eq_iff_iff.2 ?_⟩
    rw [h j]
    simp only [BitVec.getLsbD_shiftLeft, BitVec.getLsbD_one]
    simp
    omega

/-- O4 for one byte and one valid address. -/
theorem getOpcode_eq_iff (b : Byte) {a : Nat} (h : a < 256) : b = 0x20#8 ||| BitVec.ofNat 8 a ↔ b.toNat = 0x20 ||| a := by
  rw [← BitVec.toNat_inj, BitVec.toNat_or, BitVec.toNat_ofNat, BitVec.toNat_ofNat, Nat.mod_eq_of_lt h]

/-- R65: O1 to O4 against a profile whose bound keeps addresses in a byte (WF1). -/
theorem opcodesWf_iff {P : Profile} (hN : P.N ≤ 0x20) (O : OpcodeSet) :
    opcodesWf P O = true ↔
      (O.nop = 0x00#8 ∧ O.getFlag = 0x20#8)
        ∧ ((∃ i, ∀ j, O.dirMask.getLsbD j = true ↔ j = i)
          ∧ O.runBase &&& O.dirMask = 0#8 ∧ O.moveBase &&& O.dirMask = 0#8)
        ∧ (O.nop :: nonNopOpcodes O).Nodup
        ∧ ∀ b ∈ nonNopOpcodes O, ∀ a, 1 ≤ a → a < P.N → b.toNat ≠ a ∧ b.toNat ≠ 0x20 ||| a := by
  have byte_iff : ∀ b : Byte,
      (!valid P b.toNat && (List.range P.N).all fun a => !(valid P a && b == 0x20#8 ||| BitVec.ofNat 8 a)) = true ↔
        ∀ a, 1 ≤ a → a < P.N → b.toNat ≠ a ∧ b.toNat ≠ 0x20 ||| a := by
    intro b
    simp only [Bool.and_eq_true, Bool.not_eq_true', List.all_eq_true, List.mem_range, ← Bool.not_eq_true, valid_iff,
      beq_iff_eq]
    constructor
    · rintro ⟨h1, h2⟩ a ha hb
      exact ⟨fun h => h1 (h ▸ ⟨ha, hb⟩), fun h => h2 a hb ⟨⟨ha, hb⟩, (getOpcode_eq_iff b (by omega)).2 h⟩⟩
    · intro h
      exact ⟨fun h1 => (h _ h1.1 h1.2).1 rfl, fun a ha h2 => (h a h2.1.1 ha).2 ((getOpcode_eq_iff b (by omega)).1 h2.2)⟩
  simp only [opcodesWf, opcodesO1, opcodesO2, opcodesO3, opcodesO4, Bool.and_eq_true, beq_iff_eq, decide_eq_true_eq,
    List.all_eq_true, byte_iff, oneBit_iff, and_assoc]

end Sys2Proof.Machine
end

