-- ==== Sys2Proof/Laws/PerInstr.lean ====
section
/-! SUPPORT. The family FrameFits: every frame the encoder builds of an operation meets the conditions of a frame descriptor
(spec/30_encoding.md R60), one lemma per constructor. -/

namespace Sys2Proof.Laws.FrameFits

open Sys2Proof.Machine

/-- Under a well-formed profile, the frame of `i`, if the encoder builds one, has at most three argument bytes, a response
of at most three, and not both (R60). -/
def Statement (i : Instr) : Prop :=
  ∀ (P : Profile) (O : OpcodeSet) (f : Frame), profileWf P = true → encodeOp P O i = .ok f → frameWf f = true

theorem frameWf_fixed (op : Byte) : frameWf (fixedFrame op) = true := rfl

theorem frameWf_motion (O : OpcodeSet) (base : Byte) (s : Int) : frameWf (motionFrame O base s) = true := by
  simp [frameWf, motionFrame, signMag, motionBytes]

theorem nop : Statement .nop := by
  rintro P O f - h; cases h; rfl

theorem setParam (addr : Nat) (value : Int) : Statement (.setParam addr value) := by
  intro P O f hP h
  simp only [encodeOp, setParamFrame] at h
  split at h
  · rename_i w hw
    cases h
    have := bytesNeeded_range (width_range hP hw)
    simp [frameWf, this.2]
  · cases h

theorem getParam (addr : Nat) : Statement (.getParam addr) := by
  intro P O f hP h
  simp only [encodeOp, getParamFrame] at h
  split at h
  · rename_i w hw
    cases h
    have := bytesNeeded_range (width_range hP hw)
    simp [frameWf, maxRspBytes, this.2]
  · cases h

theorem run (speed : Int) : Statement (.run speed) := by
  rintro P O f - h; cases h; exact frameWf_motion _ _ _

theorem move (steps : Int) : Statement (.move steps) := by
  rintro P O f - h; cases h; exact frameWf_motion _ _ _

theorem softStop : Statement .softStop := by
  rintro P O f - h; cases h; rfl

theorem hardStop : Statement .hardStop := by
  rintro P O f - h; cases h; rfl

theorem softHiZ : Statement .softHiZ := by
  rintro P O f - h; cases h; rfl

theorem hardHiZ : Statement .hardHiZ := by
  rintro P O f - h; cases h; rfl

theorem resetDevice : Statement .resetDevice := by
  rintro P O f - h; cases h; rfl

theorem getStatus : Statement .getStatus := by
  rintro P O f - h; cases h; rfl

end Sys2Proof.Laws.FrameFits
end

