-- ==== Sys2Proof/Laws/State.lean ====
section
/-! SUPPORT. One lemma per field of State and per update that the shared operations make, so that no later proof unfolds a
record update. -/

namespace Sys2Proof.Machine

section
variable (c : Caller) (r : TransactionResult) (s : State)

@[simp] theorem deliver_profile : (deliver c r s).profile = s.profile := rfl
@[simp] theorem deliver_opcodes : (deliver c r s).opcodes = s.opcodes := rfl
@[simp] theorem deliver_phase : (deliver c r s).phase = s.phase := rfl
@[simp] theorem deliver_window : (deliver c r s).window = s.window := rfl
@[simp] theorem deliver_pos : (deliver c r s).pos = s.pos := rfl
@[simp] theorem deliver_rx : (deliver c r s).rx = s.rx := rfl
@[simp] theorem deliver_owner : (deliver c r s).owner = s.owner := rfl
@[simp] theorem deliver_requests : (deliver c r s).requests = s.requests := rfl
@[simp] theorem deliver_waiting : (deliver c r s).waiting = s.waiting := rfl
@[simp] theorem deliver_issuer : (deliver c r s).issuer = s.issuer := rfl
@[simp] theorem deliver_results : (deliver c r s).results = s.results ++ [(c, r)] := rfl
@[simp] theorem deliver_trace : (deliver c r s).trace = s.trace := rfl
@[simp] theorem deliver_answers : (deliver c r s).answers = s.answers := rfl
@[simp] theorem deliver_answerDraws : (deliver c r s).answerDraws = s.answerDraws := rfl
@[simp] theorem deliver_schedule : (deliver c r s).schedule = s.schedule := rfl
@[simp] theorem deliver_scheduleDraws : (deliver c r s).scheduleDraws = s.scheduleDraws := rfl

end

section
variable (c : Caller) (f : Frame) (s : State)

@[simp] theorem openTransaction_profile : (openTransaction c f s).profile = s.profile := rfl
@[simp] theorem openTransaction_opcodes : (openTransaction c f s).opcodes = s.opcodes := rfl
@[simp] theorem openTransaction_phase : (openTransaction c f s).phase = .active f := rfl
@[simp] theorem openTransaction_window : (openTransaction c f s).window = .shut := rfl
@[simp] theorem openTransaction_pos : (openTransaction c f s).pos = 0 := rfl
@[simp] theorem openTransaction_rx : (openTransaction c f s).rx = [] := rfl
@[simp] theorem openTransaction_owner : (openTransaction c f s).owner = some c := rfl
@[simp] theorem openTransaction_requests : (openTransaction c f s).requests = s.requests := rfl
@[simp] theorem openTransaction_waiting : (openTransaction c f s).waiting = s.waiting := rfl
@[simp] theorem openTransaction_issuer : (openTransaction c f s).issuer = s.issuer := rfl
@[simp] theorem openTransaction_results : (openTransaction c f s).results = s.results := rfl
@[simp] theorem openTransaction_trace : (openTransaction c f s).trace = s.trace := rfl
@[simp] theorem openTransaction_answers : (openTransaction c f s).answers = s.answers := rfl
@[simp] theorem openTransaction_answerDraws : (openTransaction c f s).answerDraws = s.answerDraws := rfl
@[simp] theorem openTransaction_schedule : (openTransaction c f s).schedule = s.schedule := rfl
@[simp] theorem openTransaction_scheduleDraws : (openTransaction c f s).scheduleDraws = s.scheduleDraws := rfl

end

section
variable (f : Frame) (s : State)

@[simp] theorem waitForLock_profile : (waitForLock f s).profile = s.profile := rfl
@[simp] theorem waitForLock_opcodes : (waitForLock f s).opcodes = s.opcodes := rfl
@[simp] theorem waitForLock_phase : (waitForLock f s).phase = s.phase := rfl
@[simp] theorem waitForLock_window : (waitForLock f s).window = s.window := rfl
@[simp] theorem waitForLock_pos : (waitForLock f s).pos = s.pos := rfl
@[simp] theorem waitForLock_rx : (waitForLock f s).rx = s.rx := rfl
@[simp] theorem waitForLock_owner : (waitForLock f s).owner = s.owner := rfl
@[simp] theorem waitForLock_requests : (waitForLock f s).requests = s.requests := rfl
@[simp] theorem waitForLock_waiting : (waitForLock f s).waiting = s.waiting ++ [⟨s.issuer, f⟩] := rfl
@[simp] theorem waitForLock_issuer : (waitForLock f s).issuer = s.issuer := rfl
@[simp] theorem waitForLock_results : (waitForLock f s).results = s.results := rfl
@[simp] theorem waitForLock_trace : (waitForLock f s).trace = s.trace := rfl
@[simp] theorem waitForLock_answers : (waitForLock f s).answers = s.answers := rfl
@[simp] theorem waitForLock_answerDraws : (waitForLock f s).answerDraws = s.answerDraws := rfl
@[simp] theorem waitForLock_schedule : (waitForLock f s).schedule = s.schedule := rfl
@[simp] theorem waitForLock_scheduleDraws : (waitForLock f s).scheduleDraws = s.scheduleDraws := rfl

end

section
variable (k : Nat) (s : State)

@[simp] theorem dropWaiter_profile : (dropWaiter k s).profile = s.profile := rfl
@[simp] theorem dropWaiter_opcodes : (dropWaiter k s).opcodes = s.opcodes := rfl
@[simp] theorem dropWaiter_phase : (dropWaiter k s).phase = s.phase := rfl
@[simp] theorem dropWaiter_window : (dropWaiter k s).window = s.window := rfl
@[simp] theorem dropWaiter_pos : (dropWaiter k s).pos = s.pos := rfl
@[simp] theorem dropWaiter_rx : (dropWaiter k s).rx = s.rx := rfl
@[simp] theorem dropWaiter_owner : (dropWaiter k s).owner = s.owner := rfl
@[simp] theorem dropWaiter_requests : (dropWaiter k s).requests = s.requests := rfl
@[simp] theorem dropWaiter_waiting : (dropWaiter k s).waiting = s.waiting.eraseIdx k := rfl
@[simp] theorem dropWaiter_issuer : (dropWaiter k s).issuer = s.issuer := rfl
@[simp] theorem dropWaiter_results : (dropWaiter k s).results = s.results := rfl
@[simp] theorem dropWaiter_trace : (dropWaiter k s).trace = s.trace := rfl
@[simp] theorem dropWaiter_answers : (dropWaiter k s).answers = s.answers := rfl
@[simp] theorem dropWaiter_answerDraws : (dropWaiter k s).answerDraws = s.answerDraws := rfl
@[simp] theorem dropWaiter_schedule : (dropWaiter k s).schedule = s.schedule := rfl
@[simp] theorem dropWaiter_scheduleDraws : (dropWaiter k s).scheduleDraws = s.scheduleDraws := rfl

end

section
variable (s : State)

@[simp] theorem release_profile : (release s).profile = s.profile := rfl
@[simp] theorem release_opcodes : (release s).opcodes = s.opcodes := rfl
@[simp] theorem release_phase : (release s).phase = .idle := rfl
@[simp] theorem release_window : (release s).window = .shut := rfl
@[simp] theorem release_pos : (release s).pos = 0 := rfl
@[simp] theorem release_rx : (release s).rx = [] := rfl
@[simp] theorem release_owner : (release s).owner = none := rfl
@[simp] theorem release_requests : (release s).requests = s.requests := rfl
@[simp] theorem release_waiting : (release s).waiting = s.waiting := rfl
@[simp] theorem release_issuer : (release s).issuer = s.issuer := rfl
@[simp] theorem release_results : (release s).results = s.results := rfl
@[simp] theorem release_trace : (release s).trace = s.trace := rfl
@[simp] theorem release_answers : (release s).answers = s.answers := rfl
@[simp] theorem release_answerDraws : (release s).answerDraws = s.answerDraws := rfl
@[simp] theorem release_schedule : (release s).schedule = s.schedule := rfl
@[simp] theorem release_scheduleDraws : (release s).scheduleDraws = s.scheduleDraws := rfl

end

section
variable (e : Event) (s : State)

@[simp] theorem record_profile : (record e s).profile = s.profile := rfl
@[simp] theorem record_opcodes : (record e s).opcodes = s.opcodes := rfl
@[simp] theorem record_phase : (record e s).phase = s.phase := rfl
@[simp] theorem record_window : (record e s).window = s.window := rfl
@[simp] theorem record_pos : (record e s).pos = s.pos := rfl
@[simp] theorem record_rx : (record e s).rx = s.rx := rfl
@[simp] theorem record_owner : (record e s).owner = s.owner := rfl
@[simp] theorem record_requests : (record e s).requests = s.requests := rfl
@[simp] theorem record_waiting : (record e s).waiting = s.waiting := rfl
@[simp] theorem record_issuer : (record e s).issuer = s.issuer := rfl
@[simp] theorem record_results : (record e s).results = s.results := rfl
@[simp] theorem record_trace : (record e s).trace = s.trace ++ [e] := rfl
@[simp] theorem record_answers : (record e s).answers = s.answers := rfl
@[simp] theorem record_answerDraws : (record e s).answerDraws = s.answerDraws := rfl
@[simp] theorem record_schedule : (record e s).schedule = s.schedule := rfl
@[simp] theorem record_scheduleDraws : (record e s).scheduleDraws = s.scheduleDraws := rfl

end

section
variable (w : Window) (s : State)

@[simp] theorem setWindow_profile : (setWindow w s).profile = s.profile := rfl
@[simp] theorem setWindow_opcodes : (setWindow w s).opcodes = s.opcodes := rfl
@[simp] theorem setWindow_phase : (setWindow w s).phase = s.phase := rfl
@[simp] theorem setWindow_window : (setWindow w s).window = w := rfl
@[simp] theorem setWindow_pos : (setWindow w s).pos = s.pos := rfl
@[simp] theorem setWindow_rx : (setWindow w s).rx = s.rx := rfl
@[simp] theorem setWindow_owner : (setWindow w s).owner = s.owner := rfl
@[simp] theorem setWindow_requests : (setWindow w s).requests = s.requests := rfl
@[simp] theorem setWindow_waiting : (setWindow w s).waiting = s.waiting := rfl
@[simp] theorem setWindow_issuer : (setWindow w s).issuer = s.issuer := rfl
@[simp] theorem setWindow_results : (setWindow w s).results = s.results := rfl
@[simp] theorem setWindow_trace : (setWindow w s).trace = s.trace := rfl
@[simp] theorem setWindow_answers : (setWindow w s).answers = s.answers := rfl
@[simp] theorem setWindow_answerDraws : (setWindow w s).answerDraws = s.answerDraws := rfl
@[simp] theorem setWindow_schedule : (setWindow w s).schedule = s.schedule := rfl
@[simp] theorem setWindow_scheduleDraws : (setWindow w s).scheduleDraws = s.scheduleDraws := rfl

end

section
variable (s : State)

@[simp] theorem countExchange_profile : (countExchange s).profile = s.profile := rfl
@[simp] theorem countExchange_opcodes : (countExchange s).opcodes = s.opcodes := rfl
@[simp] theorem countExchange_phase : (countExchange s).phase = s.phase := rfl
@[simp] theorem countExchange_window : (countExchange s).window = s.window := rfl
@[simp] theorem countExchange_pos : (countExchange s).pos = s.pos + 1 := rfl
@[simp] theorem countExchange_rx : (countExchange s).rx = s.rx := rfl
@[simp] theorem countExchange_owner : (countExchange s).owner = s.owner := rfl
@[simp] theorem countExchange_requests : (countExchange s).requests = s.requests := rfl
@[simp] theorem countExchange_waiting : (countExchange s).waiting = s.waiting := rfl
@[simp] theorem countExchange_issuer : (countExchange s).issuer = s.issuer := rfl
@[simp] theorem countExchange_results : (countExchange s).results = s.results := rfl
@[simp] theorem countExchange_trace : (countExchange s).trace = s.trace := rfl
@[simp] theorem countExchange_answers : (countExchange s).answers = s.answers := rfl
@[simp] theorem countExchange_answerDraws : (countExchange s).answerDraws = s.answerDraws := rfl
@[simp] theorem countExchange_schedule : (countExchange s).schedule = s.schedule := rfl
@[simp] theorem countExchange_scheduleDraws : (countExchange s).scheduleDraws = s.scheduleDraws := rfl

end

section
variable (b : Byte) (s : State)

@[simp] theorem receive_profile : (receive b s).profile = s.profile := rfl
@[simp] theorem receive_opcodes : (receive b s).opcodes = s.opcodes := rfl
@[simp] theorem receive_phase : (receive b s).phase = s.phase := rfl
@[simp] theorem receive_window : (receive b s).window = s.window := rfl
@[simp] theorem receive_pos : (receive b s).pos = s.pos + 1 := rfl
@[simp] theorem receive_rx : (receive b s).rx = s.rx ++ [b] := rfl
@[simp] theorem receive_owner : (receive b s).owner = s.owner := rfl
@[simp] theorem receive_requests : (receive b s).requests = s.requests := rfl
@[simp] theorem receive_waiting : (receive b s).waiting = s.waiting := rfl
@[simp] theorem receive_issuer : (receive b s).issuer = s.issuer := rfl
@[simp] theorem receive_results : (receive b s).results = s.results := rfl
@[simp] theorem receive_trace : (receive b s).trace = s.trace := rfl
@[simp] theorem receive_answers : (receive b s).answers = s.answers := rfl
@[simp] theorem receive_answerDraws : (receive b s).answerDraws = s.answerDraws := rfl
@[simp] theorem receive_schedule : (receive b s).schedule = s.schedule := rfl
@[simp] theorem receive_scheduleDraws : (receive b s).scheduleDraws = s.scheduleDraws := rfl

end

section
variable (k : Nat) (r : Request) (s : State)

@[simp] theorem takeRequest_profile : (takeRequest k r s).profile = s.profile := rfl
@[simp] theorem takeRequest_opcodes : (takeRequest k r s).opcodes = s.opcodes := rfl
@[simp] theorem takeRequest_phase : (takeRequest k r s).phase = s.phase := rfl
@[simp] theorem takeRequest_window : (takeRequest k r s).window = s.window := rfl
@[simp] theorem takeRequest_pos : (takeRequest k r s).pos = s.pos := rfl
@[simp] theorem takeRequest_rx : (takeRequest k r s).rx = s.rx := rfl
@[simp] theorem takeRequest_owner : (takeRequest k r s).owner = s.owner := rfl
@[simp] theorem takeRequest_requests : (takeRequest k r s).requests = s.requests.eraseIdx k := rfl
@[simp] theorem takeRequest_waiting : (takeRequest k r s).waiting = s.waiting := rfl
@[simp] theorem takeRequest_issuer : (takeRequest k r s).issuer = r.caller := rfl
@[simp] theorem takeRequest_results : (takeRequest k r s).results = s.results := rfl
@[simp] theorem takeRequest_trace : (takeRequest k r s).trace = s.trace := rfl
@[simp] theorem takeRequest_answers : (takeRequest k r s).answers = s.answers := rfl
@[simp] theorem takeRequest_answerDraws : (takeRequest k r s).answerDraws = s.answerDraws := rfl
@[simp] theorem takeRequest_schedule : (takeRequest k r s).schedule = s.schedule := rfl
@[simp] theorem takeRequest_scheduleDraws : (takeRequest k r s).scheduleDraws = s.scheduleDraws := rfl

end

section
variable (s : State)

@[simp] theorem dropAnswer_profile : (dropAnswer s).profile = s.profile := by
  unfold dropAnswer; split <;> rfl
@[simp] theorem dropAnswer_opcodes : (dropAnswer s).opcodes = s.opcodes := by
  unfold dropAnswer; split <;> rfl
@[simp] theorem dropAnswer_phase : (dropAnswer s).phase = s.phase := by
  unfold dropAnswer; split <;> rfl
@[simp] theorem dropAnswer_window : (dropAnswer s).window = s.window := by
  unfold dropAnswer; split <;> rfl
@[simp] theorem dropAnswer_pos : (dropAnswer s).pos = s.pos := by
  unfold dropAnswer; split <;> rfl
@[simp] theorem dropAnswer_rx : (dropAnswer s).rx = s.rx := by
  unfold dropAnswer; split <;> rfl
@[simp] theorem dropAnswer_owner : (dropAnswer s).owner = s.owner := by
  unfold dropAnswer; split <;> rfl
@[simp] theorem dropAnswer_requests : (dropAnswer s).requests = s.requests := by
  unfold dropAnswer; split <;> rfl
@[simp] theorem dropAnswer_waiting : (dropAnswer s).waiting = s.waiting := by
  unfold dropAnswer; split <;> rfl
@[simp] theorem dropAnswer_issuer : (dropAnswer s).issuer = s.issuer := by
  unfold dropAnswer; split <;> rfl
@[simp] theorem dropAnswer_results : (dropAnswer s).results = s.results := by
  unfold dropAnswer; split <;> rfl
@[simp] theorem dropAnswer_trace : (dropAnswer s).trace = s.trace := by
  unfold dropAnswer; split <;> rfl
@[simp] theorem dropAnswer_schedule : (dropAnswer s).schedule = s.schedule := by
  unfold dropAnswer; split <;> rfl
@[simp] theorem dropAnswer_scheduleDraws : (dropAnswer s).scheduleDraws = s.scheduleDraws := by
  unfold dropAnswer; split <;> rfl

end

section
variable (s : State)

@[simp] theorem dropChoice_profile : (dropChoice s).profile = s.profile := by
  unfold dropChoice; split <;> rfl
@[simp] theorem dropChoice_opcodes : (dropChoice s).opcodes = s.opcodes := by
  unfold dropChoice; split <;> rfl
@[simp] theorem dropChoice_phase : (dropChoice s).phase = s.phase := by
  unfold dropChoice; split <;> rfl
@[simp] theorem dropChoice_window : (dropChoice s).window = s.window := by
  unfold dropChoice; split <;> rfl
@[simp] theorem dropChoice_pos : (dropChoice s).pos = s.pos := by
  unfold dropChoice; split <;> rfl
@[simp] theorem dropChoice_rx : (dropChoice s).rx = s.rx := by
  unfold dropChoice; split <;> rfl
@[simp] theorem dropChoice_owner : (dropChoice s).owner = s.owner := by
  unfold dropChoice; split <;> rfl
@[simp] theorem dropChoice_requests : (dropChoice s).requests = s.requests := by
  unfold dropChoice; split <;> rfl
@[simp] theorem dropChoice_waiting : (dropChoice s).waiting = s.waiting := by
  unfold dropChoice; split <;> rfl
@[simp] theorem dropChoice_issuer : (dropChoice s).issuer = s.issuer := by
  unfold dropChoice; split <;> rfl
@[simp] theorem dropChoice_results : (dropChoice s).results = s.results := by
  unfold dropChoice; split <;> rfl
@[simp] theorem dropChoice_trace : (dropChoice s).trace = s.trace := by
  unfold dropChoice; split <;> rfl
@[simp] theorem dropChoice_answers : (dropChoice s).answers = s.answers := by
  unfold dropChoice; split <;> rfl
@[simp] theorem dropChoice_answerDraws : (dropChoice s).answerDraws = s.answerDraws := by
  unfold dropChoice; split <;> rfl

end

section
variable (s : State)

@[simp] theorem afterChoice_profile : (afterChoice s).profile = s.profile := by
  unfold afterChoice; split <;> simp
@[simp] theorem afterChoice_opcodes : (afterChoice s).opcodes = s.opcodes := by
  unfold afterChoice; split <;> simp
@[simp] theorem afterChoice_phase : (afterChoice s).phase = s.phase := by
  unfold afterChoice; split <;> simp
@[simp] theorem afterChoice_window : (afterChoice s).window = s.window := by
  unfold afterChoice; split <;> simp
@[simp] theorem afterChoice_pos : (afterChoice s).pos = s.pos := by
  unfold afterChoice; split <;> simp
@[simp] theorem afterChoice_rx : (afterChoice s).rx = s.rx := by
  unfold afterChoice; split <;> simp
@[simp] theorem afterChoice_owner : (afterChoice s).owner = s.owner := by
  unfold afterChoice; split <;> simp
@[simp] theorem afterChoice_requests : (afterChoice s).requests = s.requests := by
  unfold afterChoice; split <;> simp
@[simp] theorem afterChoice_waiting : (afterChoice s).waiting = s.waiting := by
  unfold afterChoice; split <;> simp
@[simp] theorem afterChoice_issuer : (afterChoice s).issuer = s.issuer := by
  unfold afterChoice; split <;> simp
@[simp] theorem afterChoice_results : (afterChoice s).results = s.results := by
  unfold afterChoice; split <;> simp
@[simp] theorem afterChoice_trace : (afterChoice s).trace = s.trace := by
  unfold afterChoice; split <;> simp
@[simp] theorem afterChoice_answers : (afterChoice s).answers = s.answers := by
  unfold afterChoice; split <;> simp
@[simp] theorem afterChoice_answerDraws : (afterChoice s).answerDraws = s.answerDraws := by
  unfold afterChoice; split <;> simp

end

@[simp] theorem init_profile (P : Profile) (O : OpcodeSet) : (State.init P O).profile = P := rfl
@[simp] theorem init_opcodes (P : Profile) (O : OpcodeSet) : (State.init P O).opcodes = O := rfl
@[simp] theorem init_phase (P : Profile) (O : OpcodeSet) : (State.init P O).phase = .idle := rfl
@[simp] theorem init_window (P : Profile) (O : OpcodeSet) : (State.init P O).window = .shut := rfl
@[simp] theorem init_pos (P : Profile) (O : OpcodeSet) : (State.init P O).pos = 0 := rfl
@[simp] theorem init_rx (P : Profile) (O : OpcodeSet) : (State.init P O).rx = [] := rfl
@[simp] theorem init_owner (P : Profile) (O : OpcodeSet) : (State.init P O).owner = none := rfl
@[simp] theorem init_requests (P : Profile) (O : OpcodeSet) : (State.init P O).requests = [] := rfl
@[simp] theorem init_waiting (P : Profile) (O : OpcodeSet) : (State.init P O).waiting = [] := rfl
@[simp] theorem init_issuer (P : Profile) (O : OpcodeSet) : (State.init P O).issuer = 0 := rfl
@[simp] theorem init_results (P : Profile) (O : OpcodeSet) : (State.init P O).results = [] := rfl
@[simp] theorem init_trace (P : Profile) (O : OpcodeSet) : (State.init P O).trace = [] := rfl
@[simp] theorem init_answers (P : Profile) (O : OpcodeSet) : (State.init P O).answers = [] := rfl
@[simp] theorem init_answerDraws (P : Profile) (O : OpcodeSet) : (State.init P O).answerDraws = 0 := rfl
@[simp] theorem init_schedule (P : Profile) (O : OpcodeSet) : (State.init P O).schedule = [] := rfl
@[simp] theorem init_scheduleDraws (P : Profile) (O : OpcodeSet) : (State.init P O).scheduleDraws = 0 := rfl

end Sys2Proof.Machine
end

