-- ==== Sys2Proof/Laws/Ops.lean ====
section
/-! SUPPORT. One lemma for each shared operation, saying once everything it can do. -/

namespace Sys2Proof.Machine

open Sys2Proof.Safety

/-- Every meaning is the encoder's outcome handed over (R181, R183). -/
theorem exec_eq_submit (i : Instr) (s : State) : exec i s = .next (submit (encodeOp s.profile s.opcodes i) s) := by
  cases i <;> rfl

theorem transact_of_free {s : State} (h : s.owner = none) (f : Frame) : transact f s = openTransaction s.issuer f s := by
  simp [transact, h]

theorem transact_of_held {s : State} {c : Caller} (h : s.owner = some c) (f : Frame) :
    transact f s = waitForLock f s := by
  simp [transact, h]

/-- Handing over: an error is returned at once, a frame takes the free lock, or it waits. -/
theorem submit_cases (r : Except TxError Frame) (s : State) :
    (∃ e, r = .error e ∧ submit r s = deliver s.issuer (.err e) s)
      ∨ (∃ f, r = .ok f ∧ s.owner = none ∧ submit r s = openTransaction s.issuer f s)
      ∨ (∃ f c, r = .ok f ∧ s.owner = some c ∧ submit r s = waitForLock f s) := by
  cases r with
  | error e => exact .inl ⟨e, rfl, rfl⟩
  | ok f =>
    cases h : s.owner with
    | none => exact .inr (.inl ⟨f, rfl, rfl, transact_of_free h f⟩)
    | some c => exact .inr (.inr ⟨f, c, rfl, rfl, transact_of_held h f⟩)

theorem finish_of_owner {s : State} {c : Caller} (h : s.owner = some c) (r : TransactionResult) :
    finish r s = deliver c r (release s) := by
  simp [finish, h]

/-- Ending a transaction releases the sequencer and the lock, and returns the result to the owner if there is one. -/
theorem finish_cases (r : TransactionResult) (s : State) :
    (∃ c, s.owner = some c ∧ finish r s = deliver c r (release s)) ∨ (s.owner = none ∧ finish r s = release s) := by
  cases h : s.owner with
  | none => exact .inr ⟨rfl, by simp [finish, h]⟩
  | some c => exact .inl ⟨c, rfl, finish_of_owner h r⟩

/-- Closing the window ends the transaction: with the pending failure, or with what the response decoder says. -/
theorem closeFrame_cases (s : State) :
    (∃ e, s.window = .failing e ∧ closeFrame s = finish (.err (.transportFailure e)) s)
      ∨ ((∀ e, s.window ≠ .failing e) ∧ closeFrame s = finish (decodeResponse s.rx) s) := by
  cases h : s.window <;> simp [closeFrame, h, endInFailure]

/-- A waiting caller takes the lock, or there is no such caller and nothing happens. -/
theorem grant_cases (k : Nat) (s : State) :
    (∃ w, s.waiting[k]? = some w
        ∧ grant k s = openTransaction w.caller w.frame (dropWaiter k s))
      ∨ (s.waiting[k]? = none ∧ grant k s = s) := by
  cases h : s.waiting[k]? with
  | none => exact .inr ⟨rfl, by simp [grant, h]⟩
  | some w => exact .inl ⟨w, rfl, by simp [grant, h]⟩

/-- The next exchange is the opcode, an argument byte, a response byte, or none is left. -/
theorem nextExchange_cases (f : Frame) (pos : Nat) :
    (pos = 0 ∧ nextExchange f pos = .txByte f.op)
      ∨ (∃ b, 0 < pos ∧ f.args[pos - 1]? = some b ∧ nextExchange f pos = .txByte b)
      ∨ (f.args.length < pos ∧ pos < exchangeCount f ∧ nextExchange f pos = .rxByte)
      ∨ (0 < pos ∧ exchangeCount f ≤ pos ∧ nextExchange f pos = .frameEnd) := by
  unfold nextExchange
  split
  · exact .inl ⟨‹_›, rfl⟩
  · split
    · exact .inr (.inl ⟨_, by omega, ‹_›, rfl⟩)
    · rename_i h
      have : f.args.length ≤ pos - 1 := by simpa using h
      split
      · exact .inr (.inr (.inl ⟨by omega, ‹_›, rfl⟩))
      · exact .inr (.inr (.inr ⟨by omega, by omega, rfl⟩))

/-- A step of the sequencer applies the transport's answer to the next primitive of the frame in flight. -/
theorem advance_of_active {s : State} {f : Frame} (h : s.phase = .active f) :
    advance s = applyAnswer (nextPrim f s) (nextAnswer s) (dropAnswer s) := by
  simp [advance, h]

theorem advance_of_idle {s : State} (h : s.phase = .idle) : advance s = s := by
  simp [advance, h]

/-- What one answer can do: nothing, the effect of a completed primitive, or that of a failed one; each of the last two is
recorded. -/
theorem applyAnswer_cases (p : Prim) (a : Answer) (s : State) :
    (a = .notYet ∧ applyAnswer p a s = s)
      ∨ (∃ b, a = .ok b ∧ applyAnswer p a s = primitiveOk p b (record (okEvent p b) s))
      ∨ (∃ e, a = .fail e ∧ applyAnswer p a s = primitiveFailed p e (record (.failed p e) s)) := by
  cases a <;> simp [applyAnswer]

/-- Carrying out a step: an unconstructed block refuses, nothing moves, or the chosen move is carried out. -/
theorem step_cases (s : State) :
    (configured s = false ∧ step s = .refused .notConstructed)
      ∨ (configured s = true ∧ chosen s = none ∧ step s = .next s)
      ∨ (∃ m, configured s = true ∧ chosen s = some m ∧ step s = runMove m (afterChoice s)) := by
  cases h : configured s with
  | false => exact .inl ⟨rfl, by simp [step, h]⟩
  | true =>
    cases h2 : chosen s with
    | none => exact .inr (.inl ⟨rfl, rfl, by simp [step, h, h2]⟩)
    | some m => exact .inr (.inr ⟨m, rfl, rfl, by simp [step, h, h2]⟩)

/-- The chosen move is one of the possible ones. -/
theorem chosen_mem {s : State} {m : Move} (h : chosen s = some m) : m ∈ moves s := by
  unfold chosen at h
  split at h
  · cases h
  · rename_i heq; rw [heq]; simpa using h.symm
  · exact List.mem_of_getElem? h

/-- Running a request: an operation runs, a request that stands for none is refused, or there is no such request. -/
theorem runRequest_cases (k : Nat) (s : State) :
    (∃ r i, s.requests[k]? = some r ∧ readForm s.profile s.opcodes r.form = .ok i
        ∧ runRequest k s = exec i (takeRequest k r s))
      ∨ (∃ r e, s.requests[k]? = some r ∧ readForm s.profile s.opcodes r.form = .error e ∧ runRequest k s = .refused e)
      ∨ (s.requests[k]? = none ∧ runRequest k s = .next s) := by
  unfold runRequest
  cases h : s.requests[k]? with
  | none => simp
  | some r => cases h2 : readForm s.profile s.opcodes r.form <;> simp [h2]

/-- A waiting caller can take the lock only where it is free. -/
theorem grant_mem_moves {s : State} {k : Nat} : Move.grant k ∈ moves s ↔ s.owner = none ∧ k < s.waiting.length := by
  unfold moves
  cases s.phase <;> simp

/-- The sequencer can issue a primitive only for a frame in flight. -/
theorem primitive_mem_moves {s : State} : Move.primitive ∈ moves s ↔ ∃ f, s.phase = .active f := by
  unfold moves
  cases s.phase <;> simp

/-- A request can be taken only where it is there and its caller is not blocked. -/
theorem issue_mem_moves {s : State} {k : Nat} : Move.issue k ∈ moves s ↔ k < s.requests.length ∧ issuable s k = true := by
  unfold moves
  cases s.phase <;> simp

/-- A request that can be taken is one of a free caller. -/
theorem callerFree_of_issuable {s : State} {k : Nat} {r : Request} (hr : s.requests[k]? = some r)
    (h : issuable s k = true) : s.owner ≠ some r.caller ∧ r.caller ∉ s.waiting.map Waiter.caller := by
  simp only [issuable, hr, callerFree, Bool.and_eq_true, bne_iff_ne, List.all_eq_true] at h
  exact ⟨h.1.1, by simpa using h.1.2⟩

/-- Everything a step that answers a next state can be: nothing moves; an operation is encoded and handed over; a waiting
caller takes the lock; the sequencer issues one primitive. -/
theorem step_next_cases {s t : State} (h : step s = .next t) :
    configured s = true
      ∧ (t = s
        ∨ (∃ k r i, Move.issue k ∈ moves s ∧ s.requests[k]? = some r ∧ readForm s.profile s.opcodes r.form = .ok i
            ∧ t = submit (encodeOp s.profile s.opcodes i) (takeRequest k r (afterChoice s)))
        ∨ (∃ k w, s.owner = none ∧ s.waiting[k]? = some w
            ∧ t = openTransaction w.caller w.frame (dropWaiter k (afterChoice s)))
        ∨ (∃ f, s.phase = .active f ∧ t = advance (afterChoice s))) := by
  rcases step_cases s with ⟨_, h'⟩ | ⟨hc, _, h'⟩ | ⟨m, hc, hm, h'⟩ <;> rw [h'] at h
  · cases h
  · cases h; exact ⟨hc, .inl rfl⟩
  · refine ⟨hc, .inr ?_⟩
    have hmem := chosen_mem hm
    cases m with
    | issue k =>
      rcases runRequest_cases k (afterChoice s) with ⟨r, i, hr, hi, h2⟩ | ⟨r, e, -, -, h2⟩ | ⟨h3, -⟩
      · rw [runMove, h2, exec_eq_submit] at h
        cases h
        exact .inl ⟨k, r, i, hmem, by simpa using hr, by simpa using hi, by simp⟩
      · rw [runMove, h2] at h; cases h
      · have := (issue_mem_moves.1 hmem).1
        simp at h3; omega
    | grant k =>
      cases h
      obtain ⟨ho, hk⟩ := grant_mem_moves.1 hmem
      rcases grant_cases k (afterChoice s) with ⟨w, hw, h2⟩ | ⟨h3, -⟩
      · exact .inr (.inl ⟨k, w, ho, by simpa using hw, h2⟩)
      · simp at h3; omega
    | primitive =>
      cases h
      obtain ⟨f, hf⟩ := primitive_mem_moves.1 hmem
      exact .inr (.inr ⟨f, hf, rfl⟩)

/-- A run of `n + 1` steps is the run of `n` steps from the next state. -/
theorem core_run_succ {s t : State} (n : Nat) (h : step s = .next t) :
    Host.Core.run core (n + 1) s = Host.Core.run core n t := by
  have h' : core.step s = .next t := h
  simp only [Host.Core.run, h']

theorem advances_add (m n : Nat) (s : State) : advances (m + n) s = advances n (advances m s) := by
  induction m generalizing s with
  | zero => simp [advances]
  | succ m ih => rw [Nat.add_right_comm]; exact ih (advance s)

end Sys2Proof.Machine
end

