-- ==== Sys2Proof/Laws/Wire.lean ====
section
/-! SUPPORT. The events of a frame's window, exchange by exchange (spec/45_transaction.md R181, R182). -/

namespace Sys2Proof.Safety

open Sys2Proof.Machine

theorem exchangePrims_length (f : Frame) : (exchangePrims f).length = exchangeCount f := by
  simp only [exchangePrims, exchangeCount, List.length_cons, List.length_append, List.length_map, List.length_replicate]
  omega

/-- The sequencer's next exchange is the one R181 lists at its position. -/
theorem exchangePrims_nextExchange (f : Frame) {pos : Nat} (h : pos < exchangeCount f) :
    (exchangePrims f)[pos]? = some (nextExchange f pos) := by
  rcases nextExchange_cases f pos with ⟨rfl, q⟩ | ⟨b, h0, hb, q⟩ | ⟨h0, h1, q⟩ | ⟨_, h1, _⟩
  · rw [q]; rfl
  · have hlen : pos - 1 < f.args.length := (List.getElem?_eq_some_iff.1 hb).1
    obtain ⟨n, rfl⟩ : ∃ n, pos = n + 1 := ⟨pos - 1, by omega⟩
    simp only [Nat.add_sub_cancel] at hb hlen
    rw [q, exchangePrims, List.getElem?_cons_succ, List.getElem?_append_left (by simpa using hlen), List.getElem?_map, hb]
    rfl
  · obtain ⟨n, rfl⟩ : ∃ n, pos = n + 1 := ⟨pos - 1, by omega⟩
    rw [q, exchangePrims, List.getElem?_cons_succ, List.getElem?_append_right (by simp; omega)]
    rw [List.getElem?_replicate, if_pos (by simp [exchangeCount] at h ⊢; omega)]
  · omega

/-- A window's events up to all its exchanges, and its closing, are the whole frame. -/
theorem frameEvents_eq_windowEvents (f : Frame) (rs : List Byte) :
    frameEvents f rs = windowEvents f (exchangeCount f) rs ++ [.close] := by
  have h : (sentBytes f).take (exchangeCount f) = sentBytes f :=
    List.take_of_length_le (by simp only [sentBytes, exchangeCount, List.length_cons]; omega)
  rw [windowEvents, h]
  simp [frameEvents, sentBytes]

/-- One more byte sent: the window has its event at the end. -/
theorem windowEvents_tx {f : Frame} {n : Nat} {b : Byte} (h : (sentBytes f)[n]? = some b) :
    windowEvents f (n + 1) [] = windowEvents f n [] ++ [.tx b] := by
  simp [windowEvents, List.take_add_one, h]

/-- One more byte read, after all bytes sent: the window has its event at the end. -/
theorem windowEvents_rx {f : Frame} {n : Nat} (h : 1 + f.args.length ≤ n) (rs : List Byte) (b : Byte) :
    windowEvents f (n + 1) (rs ++ [b]) = windowEvents f n rs ++ [.rx b] := by
  have hl : (sentBytes f).length ≤ n := by simp only [sentBytes, List.length_cons]; omega
  simp [windowEvents, List.take_of_length_le hl, List.take_of_length_le (Nat.le_succ_of_le hl)]

end Sys2Proof.Safety
end

