-- ==== Sys2Proof/Machine/Flags.lean ====
section
/-! DEFINITION. The block has no flags of its own (spec/10_state.md R35). The flags visible through it are the bits of the
status word, read by name through the profile's layout (spec/44_fixed_commands.md R167, spec/10_state.md R29). -/

namespace Sys2Proof.Machine

/-- R12: `v[hi:lo]`. -/
def bitField (v hi lo : Nat) : Nat := v / 2 ^ lo % 2 ^ (hi + 1 - lo)

/-- What statusFlag reads (R29): whether a flag is asserted, or a field's value and its name in the field's enumeration
(none where the layout names no such value, log 3). -/
inductive Reading where
  | asserted (b : Bool)
  | field (n : Nat) (name : Option String)
  deriving DecidableEq, Repr

/-- The name of a layout entry (R29). -/
def entryName : LayoutEntry → String
  | .flag name _ _ => name
  | .field name _ _ _ => name

/-- R29: the reading of one entry; polarity is the entry's own. Where a field's enumeration lists one value twice, the first
listing names it, the model's choice (log 3). -/
def readEntry (word : Nat) : LayoutEntry → Reading
  | .flag _ bit .high => .asserted (bitField word bit bit == 1)
  | .flag _ bit .low => .asserted (bitField word bit bit == 0)
  | .field _ hi lo values => .field (bitField word hi lo) (values.lookup (bitField word hi lo))

/-- R167: read one named status flag or field of `word` through P's layout; a name the layout lacks is refused (U8). -/
def statusFlag (P : Profile) (word : Nat) (name : String) : Except Refusal Reading :=
  match P.layout.find? (fun e => entryName e == name) with
  | some e => .ok (readEntry word e)
  | none => .error (.noSuchStatus name)

end Sys2Proof.Machine
end

