-- ==== Sys2Proof/Certificates/Slice0/Obligations.lean ====
section
/-! DEFINITION. The statements for the provers, each from the numbered rules of spec/ its docstring names. -/

open Sys2Proof Sys2Proof.Machine Sys2Proof.Safety

/-! ## Register map and construction -/

/-- R23, R90: an address is valid iff `1 <= a < P.N`. -/
def Obligations.ValidAddressesRunFromOneToBound : Prop :=
  ∀ (P : Profile) (a : Nat), valid P a = true ↔ 1 ≤ a ∧ a < P.N

/-- R91, R24: in a well-formed profile every valid address has its own row's width, in [4, 22], and every other address is
InvalidRegister with that address. -/
def Obligations.WidthOfEveryAddress : Prop :=
  ∀ (P : Profile) (a : Nat), profileWf P = true →
    (valid P a = true → ∃ row, P.rows[a - 1]? = some row ∧ width P a = .ok row.width ∧ 4 ≤ row.width ∧ row.width ≤ 22)
      ∧ (valid P a = false → width P a = .error (.invalidRegister a))

/-- R92: the byte count of a register is `bytesNeeded` of its width, 1, 2 or 3 by the width's range, and is InvalidRegister
exactly where the width is. -/
def Obligations.RegisterBytesFollowWidth : Prop :=
  ∀ (P : Profile) (a : Nat), profileWf P = true →
    (valid P a = true → ∃ w, width P a = .ok w ∧ regBytes P a = .ok (bytesNeeded w)
        ∧ ((4 ≤ w ∧ w ≤ 8 ∧ bytesNeeded w = 1) ∨ (9 ≤ w ∧ w ≤ 16 ∧ bytesNeeded w = 2)
          ∨ (17 ≤ w ∧ w ≤ 22 ∧ bytesNeeded w = 3)))
      ∧ (valid P a = false → regBytes P a = .error (.invalidRegister a))

/-- R93, R22: makeProfile accepts exactly the tables that pass WF1 to WF4, and builds the profile whose rows are the table's
on `1 .. N-1`; what it builds is well-formed. WF4 is spelt out: every bit of every entry is at most 15 and no two entries
share a bit; that an entry must cover at least one bit is the model's choice (log 3). -/
def Obligations.MakeProfileAcceptsExactlyWellFormed : Prop :=
  ∀ (V : Variant) (N : Nat) (table : List (Nat × RegisterRow)) (layout : List LayoutEntry),
    (∀ P, makeProfile V N table layout = .ok P →
        profileWf P = true ∧ P.variant = V ∧ P.N = N ∧ P.layout = layout
          ∧ ∀ a, 1 ≤ a → a < N → P.rows[a - 1]? = table.lookup a)
      ∧ ((∃ P, makeProfile V N table layout = .ok P) ↔
          2 ≤ N ∧ N ≤ 0x20
            ∧ (∀ a, 1 ≤ a → a < N → ∃ row, table.lookup a = some row ∧ 4 ≤ row.width ∧ row.width ≤ 22)
            ∧ (∀ e ∈ layout, (∃ b, Covers e b) ∧ ∀ b, Covers e b → b ≤ 15)
            ∧ layout.Pairwise (fun d e => ∀ b, ¬(Covers d b ∧ Covers e b)))

/-- R251, R250, R252, R65: building a block gives the reset state of a validated profile and opcode set, or no state; with a
profile built, it succeeds exactly where O meets O1 to O4, spelt out: the two opcodes the source fixes; one bit in DIR_MASK,
clear in both motion bases; the eleven opcode bytes pairwise distinct; no non-NOP byte equal to `a` or `0x20 | a` for a
valid address `a`. -/
def Obligations.BootGivesResetStateOrNothing : Prop :=
  ∀ (V : Variant) (N : Nat) (table : List (Nat × RegisterRow)) (layout : List LayoutEntry) (O : OpcodeSet),
    (∀ s, boot V N table layout O = .ok s →
        ∃ P, makeProfile V N table layout = .ok P ∧ s = State.init P O ∧ configured s = true ∧ Ready s)
      ∧ (∀ e, makeProfile V N table layout = .error e → boot V N table layout O = .error (.profile e))
      ∧ ∀ P, makeProfile V N table layout = .ok P →
        (boot V N table layout O = .ok (State.init P O) ∨ boot V N table layout O = .error .opcodeSet)
          ∧ (boot V N table layout O = .ok (State.init P O) ↔
            (O.nop = 0x00#8 ∧ O.getFlag = 0x20#8)
              ∧ ((∃ i, ∀ j, O.dirMask.getLsbD j = true ↔ j = i)
                ∧ O.runBase &&& O.dirMask = 0#8 ∧ O.moveBase &&& O.dirMask = 0#8)
              ∧ [O.nop, O.runBase, O.runBase ||| O.dirMask, O.moveBase, O.moveBase ||| O.dirMask, O.softStop, O.hardStop,
                  O.softHiZ, O.hardHiZ, O.resetDevice, O.getStatus].Pairwise (· ≠ ·)
              ∧ ∀ b ∈ [O.runBase, O.runBase ||| O.dirMask, O.moveBase, O.moveBase ||| O.dirMask, O.softStop, O.hardStop,
                  O.softHiZ, O.hardHiZ, O.resetDevice, O.getStatus],
                ∀ a, 1 ≤ a → a < P.N → b.toNat ≠ a ∧ b.toNat ≠ 0x20 ||| a)

/-- R250, R37, R254: at reset the sequencer is Idle with `pos` 0 and `rx` empty, the lock is free, no window is open, and P and
O are as configured. -/
def Obligations.ResetIsIdleWithFreeLock : Prop :=
  ∀ (P : Profile) (O : OpcodeSet),
    (State.init P O).phase = .idle ∧ (State.init P O).window = .shut ∧ (State.init P O).pos = 0
      ∧ (State.init P O).rx = [] ∧ (State.init P O).owner = none ∧ (State.init P O).profile = P
      ∧ (State.init P O).opcodes = O

/-- R25, R26, R27: what the spec fixes of the reference tables. The tables and `N_A` themselves are the model's choice from the
family (log 2). -/
def Obligations.ReferenceVariantsShareTheirBlock : Prop :=
  width refA 0x04 = .ok 20 ∧ width refA 0x09 = .ok 8 ∧ width refB 0x04 = .ok 20 ∧ width refB 0x09 = .ok 8
    ∧ refB.N = refA.N + 2
    ∧ width refA (configAddr refA) = .ok 16 ∧ width refA (statusAddr refA) = .ok 16
    ∧ width refB (configAddr refB) = .ok 16 ∧ width refB (statusAddr refB) = .ok 16
    ∧ configAddr refA = refA.N - 2 ∧ statusAddr refA = refA.N - 1
    ∧ (gateAddrs refB).map (fun a => (refB.rows[a - 1]?).map RegisterRow.name) = [some "GATECFG1", some "GATECFG2"]
    ∧ ∀ a ∈ List.range (configAddr refA), a ∉ [0x13, 0x14, 0x15, 0x16] → width refA a = width refB a

/-! ## Byte codec and response decoder -/

/-- R100: `bytesNeeded w` is the least number of bytes that hold `w` bits, and 1, 2 or 3 on [4, 22]. -/
def Obligations.BytesNeededIsCeiling : Prop :=
  ∀ w : Nat, w ≤ 8 * bytesNeeded w ∧ 8 * bytesNeeded w < w + 8
    ∧ (4 ≤ w → w ≤ 22 → bytesNeeded w = 1 ∨ bytesNeeded w = 2 ∨ bytesNeeded w = 3)

/-- R101: `encode v n` has `n` bytes, and byte `i` is the one of weight `256^(n-1-i)` of `v mod 2^(8n)`. -/
def Obligations.EncodeIsBigEndianTruncation : Prop :=
  ∀ (v : Int) (n : Nat), (Machine.encode v n).length = n
    ∧ ∀ i, i < n →
        (Machine.encode v n)[i]? = some (BitVec.ofNat 8 ((v % 2 ^ (8 * n)).toNat / 256 ^ (n - 1 - i)))

/-- R102, R69: `decodeBE bs` is the sum of the bytes, each with the weight of its place, and is below `2^(8 len)`. -/
def Obligations.DecodeIsBigEndianSum : Prop :=
  ∀ bs : List Byte,
    decodeBE bs = ∑ i : Fin bs.length, (bs.get i).toNat * 256 ^ (bs.length - 1 - i.val)
      ∧ decodeBE bs < 2 ^ (8 * bs.length)

/-- R103, laws 1 to 4. -/
def Obligations.CodecRoundTripLaws : Prop :=
  (∀ (v : Int) (n : Nat), (decodeBE (Machine.encode v n) : Int) = v % 2 ^ (8 * n))
    ∧ (∀ bs : List Byte, Machine.encode (decodeBE bs : Int) bs.length = bs)
    ∧ (∀ (P : Profile) (a w : Nat) (v : Int), profileWf P = true → width P a = .ok w →
        (decodeBE (Machine.encode v (bytesNeeded w)) : Int) % 2 ^ w = v % 2 ^ w)
    ∧ (∀ (v k : Int) (n : Nat), Machine.encode v n = Machine.encode (v + k * 2 ^ (8 * n)) n)

/-- R200: no byte is Unit, one to three bytes are their value, four or more are UnsupportedResponseWidth. -/
def Obligations.ResponseDecodedByLength : Prop :=
  ∀ bs : List Byte,
    (bs.length = 0 → decodeResponse bs = .unit)
      ∧ (1 ≤ bs.length → bs.length ≤ 3 → decodeResponse bs = .value (decodeBE bs))
      ∧ (4 ≤ bs.length → decodeResponse bs = .err (.unsupportedResponseWidth bs.length))

/-- R220: the three errors have the codes 1, 2 and 3 and record their information. -/
def Obligations.ErrorsHaveTheirCodes : Prop :=
  ∀ n : Nat,
    errorCode (.invalidRegister n) = 1 ∧ errorInfo (.invalidRegister n) = n
      ∧ errorCode (.unsupportedResponseWidth n) = 2 ∧ errorInfo (.unsupportedResponseWidth n) = n
      ∧ errorCode (.transportFailure n) = 3 ∧ errorInfo (.transportFailure n) = n

/-! ## Operand assembly and encoding -/

/-- R140, R66, R68: the direction bit is DIR_NONNEG for a non-negative argument and its opposite for a negative one, and the
three bytes are the low 24 bits of the absolute value; `s` and `-s` have the same bytes and differ in the bit exactly when
`s` is not 0. -/
def Obligations.SignMagnitudeOfEveryInteger : Prop :=
  ∀ (O : OpcodeSet) (s : Int),
    (0 ≤ s → (signMag O s).1 = O.dirNonneg) ∧ (s < 0 → (signMag O s).1 = !O.dirNonneg)
      ∧ (signMag O s).2.length = 3 ∧ decodeBE (signMag O s).2 = s.natAbs % 2 ^ 24
      ∧ (signMag O (-s)).2 = (signMag O s).2
      ∧ ((signMag O (-s)).1 ≠ (signMag O s).1 ↔ s ≠ 0)

/-- R144: for `s` not 0 the frames of run (and of move) of `s` and `-s` have the same argument bytes, and opcodes that differ
in exactly the bit DIR_MASK. -/
def Obligations.OppositeMotionsDifferInDirectionBit : Prop :=
  ∀ (P : Profile) (O : OpcodeSet) (s : Int), configWf P O = true → s ≠ 0 →
    ∀ make, make = Instr.run ∨ make = Instr.move →
      ∃ f g, encodeOp P O (make s) = .ok f ∧ encodeOp P O (make (-s)) = .ok g
        ∧ f.args = g.args ∧ f.op ^^^ g.op = O.dirMask ∧ f.rspLen = 0 ∧ g.rspLen = 0

/-- R62: for a valid address, the set opcode has bits [7:5] 000, the get opcode 001, and both the address in bits [4:0]. -/
def Obligations.RegisterOpcodeFields : Prop :=
  ∀ (P : Profile) (O : OpcodeSet) (a : Nat), configWf P O = true → valid P a = true →
    (setOpcode a).toNat = a ∧ (setOpcode a).toNat / 32 = 0
      ∧ (getOpcode O a).toNat = 0x20 + a ∧ (getOpcode O a).toNat / 32 = 1 ∧ (getOpcode O a).toNat % 32 = a

/-- R124, R44: setParam of a value sends as many bytes as getParam of the address reads, they decode to the value masked to
the width, and so the bits above the width are 0. -/
def Obligations.WrittenBytesReadBackMasked : Prop :=
  ∀ (P : Profile) (O : OpcodeSet) (a w : Nat) (v : Int), configWf P O = true → width P a = .ok w →
    ∃ f g, encodeOp P O (.setParam a v) = .ok f ∧ encodeOp P O (.getParam a) = .ok g
      ∧ f.args.length = g.rspLen ∧ f.rspLen = 0 ∧ g.args = []
      ∧ (decodeBE f.args : Int) = v % 2 ^ w ∧ decodeBE f.args < 2 ^ w

/-- R70: for every operation the encoder accepts, classify names its command, with its write and read byte counts. -/
def Obligations.ClassifyNamesEveryEncodedOperation : Prop :=
  ∀ (P : Profile) (O : OpcodeSet) (i : Instr) (f : Frame), configWf P O = true → encodeOp P O i = .ok f →
    classify P O f.op = .command (commandOf i) f.args.length f.rspLen

/-- R71: under any opcode set no operation is encoded with a byte that classify maps to NotEmitted, and 0x00 is NOP only; under
the reference opcode set (the model's choice from the family, log 2; O1 to O4 alone do not keep a fixed command off these
bytes) none is encoded with 0x20 or with the set or get opcode of an address at or above the bound. -/
def Obligations.ReservedOpcodesAreNeverEncoded : Prop :=
  (∀ (P : Profile) (O : OpcodeSet) (i : Instr) (f : Frame), configWf P O = true → encodeOp P O i = .ok f →
      classify P O f.op ≠ .notEmitted ∧ (f.op = 0x00#8 → i = .nop))
    ∧ (∀ (P : Profile) (i : Instr) (f : Frame), configWf P refO = true → encodeOp P refO i = .ok f →
      f.op ≠ 0x20#8
        ∧ ∀ a, P.N ≤ a → a ≤ 0x1F → f.op ≠ BitVec.ofNat 8 a ∧ f.op ≠ 0x20#8 ||| BitVec.ofNat 8 a)

/-- R61, R62, R63, R67, R68, R70: decoding the bytes of a well-formed operation gives it back, with every operand at every
value its frame can carry, whatever bytes follow. -/
def Obligations.DecodeInvertsEncode : Prop :=
  ∀ (P : Profile) (O : OpcodeSet) (i : Instr), configWf P O = true → i.wellFormed P = true →
    ∃ bs, Sys2Proof.encode P O i = .ok bs ∧ ∀ rest, decode P O (bs ++ rest) = .ok (i, rest)

/-- R67, R68, R70: an operation whose operands its frame does not carry whole (a value to be masked, a magnitude to be
truncated) decodes to the canonical one, and that one has the same frame. That a zero magnitude with the negative direction
is read as `-2^24` is the model's choice (log 11). -/
def Obligations.DecodeOfEncodedIsCanonical : Prop :=
  ∀ (P : Profile) (O : OpcodeSet) (i : Instr) (bs : List Byte), configWf P O = true → Sys2Proof.encode P O i = .ok bs →
    decode P O bs = .ok (canonical P i, []) ∧ Sys2Proof.encode P O (canonical P i) = .ok bs
      ∧ (canonical P i).wellFormed P = true

/-- R60 to R71: no two byte lists stand for one well-formed operation: encoding what was decoded gives the bytes back. -/
def Obligations.EncodeInvertsDecode : Prop :=
  ∀ (P : Profile) (O : OpcodeSet) (i : Instr) (bs rest : List Byte), configWf P O = true →
    decode P O bs = .ok (i, rest) → i.wellFormed P = true →
    ∃ front, Sys2Proof.encode P O i = .ok front ∧ bs = front ++ rest

/-- R62, R63, R70 and opcode_table.json: a few words decode to what they stand for. The opcodes are those of the reference
configuration, the model's choice from the family (log 2); that the opcode is a word's bits [7:0] and that argument bytes
the word does not give are 0, as in setParam(9, 0), run(0) and move(0), is the model's choice too (log 12). -/
def Obligations.TableWordsDecodeAsWritten : Prop :=
  decodeTableWord 8 0b00000000 = some .nop
    ∧ decodeTableWord 8 0b00001001 = some (.setParam 9 0)
    ∧ decodeTableWord 8 0b00100100 = some (.getParam 4)
    ∧ decodeTableWord 8 0b01010001 = some (.run 0)
    ∧ decodeTableWord 8 0b01000001 = some (.move 0)
    ∧ decodeTableWord 8 0b10110000 = some .softStop
    ∧ decodeTableWord 8 0b11010000 = some .getStatus
    ∧ decodeTableWord 8 0b00100000 = none
    ∧ decodeTableWord 8 0b00011010 = none

/-! ## The operations -/

/-- R160: nop sends `[0x00]` and returns Unit. -/
def Obligations.NopSendsItsOpcode : Prop :=
  ∀ s : State, configured s = true → s.owner = none → RunsFrame .nop ⟨0x00#8, [], 0⟩ (fun _ => .unit) s

/-- R161 to R164: softStop, hardStop, softHiZ and hardHiZ each send their one opcode byte and return Unit. -/
def Obligations.StopsAndHiZSendTheirOpcodes : Prop :=
  ∀ s : State, s.owner = none →
    RunsFrame .softStop ⟨s.opcodes.softStop, [], 0⟩ (fun _ => .unit) s
      ∧ RunsFrame .hardStop ⟨s.opcodes.hardStop, [], 0⟩ (fun _ => .unit) s
      ∧ RunsFrame .softHiZ ⟨s.opcodes.softHiZ, [], 0⟩ (fun _ => .unit) s
      ∧ RunsFrame .hardHiZ ⟨s.opcodes.hardHiZ, [], 0⟩ (fun _ => .unit) s

/-- R165, R253: resetDevice sends its one opcode byte and returns Unit; it resets the chip, not the block: what the block
ends with is what any other frame of one byte leaves. -/
def Obligations.ResetDeviceSendsItsOpcode : Prop :=
  ∀ s : State, s.owner = none → RunsFrame .resetDevice ⟨s.opcodes.resetDevice, [], 0⟩ (fun _ => .unit) s

/-- R166: getStatus sends its opcode, reads two bytes and returns their unsigned value. -/
def Obligations.GetStatusReadsTwoBytes : Prop :=
  ∀ s : State, s.owner = none →
    RunsFrame .getStatus ⟨s.opcodes.getStatus, [], 2⟩ (fun rs => .value (decodeBE rs)) s

/-- R120: setParam of a valid address sends the address as opcode and the value masked to the register's width in
`bytesNeeded` bytes, and returns Unit; of any other address it returns InvalidRegister and does nothing else. -/
def Obligations.SetParamSendsMaskedValue : Prop :=
  ∀ (s : State) (a : Nat) (v : Int), configured s = true → s.owner = none →
    (∀ w, width s.profile a = .ok w →
        RunsFrame (.setParam a v) ⟨BitVec.ofNat 8 a, Machine.encode (v % 2 ^ w) (bytesNeeded w), 0⟩ (fun _ => .unit) s)
      ∧ (valid s.profile a = false →
          exec (.setParam a v) s = .next { s with results := s.results ++ [(s.issuer, .err (.invalidRegister a))] })

/-- R121: getParam of a valid address sends `0x20 | a`, reads `bytesNeeded` of the width bytes and returns their unsigned value,
unmasked; of any other address it returns InvalidRegister and does nothing else. -/
def Obligations.GetParamReadsRegister : Prop :=
  ∀ (s : State) (a : Nat), configured s = true → s.owner = none →
    (∀ w, width s.profile a = .ok w →
        RunsFrame (.getParam a) ⟨0x20#8 ||| BitVec.ofNat 8 a, [], bytesNeeded w⟩ (fun rs => .value (decodeBE rs)) s)
      ∧ (valid s.profile a = false →
          exec (.getParam a) s = .next { s with results := s.results ++ [(s.issuer, .err (.invalidRegister a))] })

/-- R141, R63, R68: run sends its base opcode with the direction bit and the three magnitude bytes, and returns Unit; it
never reads P. -/
def Obligations.RunSendsSignAndMagnitude : Prop :=
  ∀ (s : State) (v : Int), s.owner = none →
    RunsFrame (.run v)
      ⟨s.opcodes.runBase ||| (if (0 ≤ v ↔ s.opcodes.dirNonneg = true) then s.opcodes.dirMask else 0#8),
        Machine.encode (|v|) 3, 0⟩ (fun _ => .unit) s

/-- R142, R63, R68: move sends its base opcode with the direction bit and the three magnitude bytes, and returns Unit. -/
def Obligations.MoveSendsSignAndMagnitude : Prop :=
  ∀ (s : State) (v : Int), s.owner = none →
    RunsFrame (.move v)
      ⟨s.opcodes.moveBase ||| (if (0 ≤ v ↔ s.opcodes.dirNonneg = true) then s.opcodes.dirMask else 0#8),
        Machine.encode (|v|) 3, 0⟩ (fun _ => .unit) s

/-- R122, R183, R221: in every state, whoever holds the lock, setParam and getParam of an invalid address return InvalidRegister
with that address and change nothing else: no primitive, no lock; and of a valid address no such error is returned. That the refusal comes
at once while another caller's frame is in flight is the model's reading (log 1). -/
def Obligations.InvalidAddressRefusedBeforeAnyExchange : Prop :=
  ∀ (s : State) (a : Nat) (v : Int), configured s = true →
    ∀ i, i = Instr.setParam a v ∨ i = Instr.getParam a →
      (valid s.profile a = false →
          exec i s = .next { s with results := s.results ++ [(s.issuer, .err (.invalidRegister a))] })
        ∧ (valid s.profile a = true → ∃ t, exec i s = .next t ∧ t.results = s.results)

/-- R186: while the lock is held, an operation with a frame waits with it and changes nothing else. -/
def Obligations.HeldLockMakesCallerWait : Prop :=
  ∀ (s : State) (i : Instr) (f : Frame) (c : Caller), s.owner = some c → encodeOp s.profile s.opcodes i = .ok f →
    exec i s = .next { s with waiting := s.waiting ++ [⟨s.issuer, f⟩] }

/-- R20, R225, R35 and the frame of each instruction: nop, setParam, getParam, run, move, softStop, hardStop, softHiZ, hardHiZ,
resetDevice and getStatus each change, in the step that encodes them, nothing but the lock and the sequencer they take, or
the waiting list they join, or the results they are refused in. -/
def Obligations.ExecChangesOnlyWhatItHandsOver : Prop :=
  ∀ (i : Instr) (s t : State), exec i s = .next t →
    t.profile = s.profile ∧ t.opcodes = s.opcodes ∧ t.requests = s.requests ∧ t.issuer = s.issuer ∧ t.trace = s.trace
      ∧ t.answers = s.answers ∧ t.answerDraws = s.answerDraws ∧ t.schedule = s.schedule
      ∧ t.scheduleDraws = s.scheduleDraws
      ∧ (s.owner ≠ none → t.owner = s.owner ∧ t.phase = s.phase ∧ t.window = s.window ∧ t.pos = s.pos ∧ t.rx = s.rx)
      ∧ (s.owner = none → t.waiting = s.waiting)
      ∧ (t.results ≠ s.results → t.owner = s.owner ∧ t.phase = s.phase ∧ t.waiting = s.waiting
          ∧ ∃ e, t.results = s.results ++ [(s.issuer, .err e)])

/-! ## The sequencer, the lock and the agents -/

/-- R181, R184, R185, D18, D34: the sequencer, one primitive at a time, does what the transaction of R181 does as one function
of the transport's answers: its events, its result, its release, and nothing else. -/
def Obligations.SequencerRefinesTransaction : Prop :=
  ∀ (c : Caller) (f : Frame) (s : State) (x : Transacted), transaction f s.answers = some x →
    ∃ n, advances n (openTransaction c f s) = settled c x s

/-- R182, R51: where every primitive returns ok, the transaction is exactly one FrameBegin, `1 + len(args)` TxByte, `rspLen` RxByte
and one FrameEnd, in that order, and its result is the decoded response. -/
def Obligations.CompletedTransactionCounts : Prop :=
  ∀ (f : Frame) (b : Byte) (rs : List Byte) (more : List Answer), rs.length = f.rspLen →
    transaction f (okAnswers f b rs ++ more) = some ⟨frameEvents f rs, decodeResponse rs, more⟩
      ∧ (frameEvents f rs).filterMap (fun e => match e with | .tx c => some c | _ => none) = f.op :: f.args
      ∧ (frameEvents f rs).filterMap (fun e => match e with | .rx c => some c | _ => none) = rs
      ∧ (frameEvents f rs).countP (fun e => e == .begin) = 1 ∧ (frameEvents f rs).countP (fun e => e == .close) = 1
      ∧ (frameEvents f rs).length = exchangeCount f + 2

/-- R185, R184, R225: an exchange that fails with `e` completes nothing and leads to the release; the next primitive is
FrameEnd, and whatever it answers, the caller gets TransportFailure(e), no value, and the block is ready. -/
def Obligations.FailedExchangeReleasesAndReports : Prop :=
  ∀ (s : State) (f : Frame) (c : Caller) (e : Payload) (a : Answer) (more : List Answer),
    s.phase = .active f → s.owner = some c → s.window = .opened → s.pos < exchangeCount f →
    s.answers = .fail e :: a :: more → a ≠ .notYet →
    advance s = { s with window := .failing e, trace := s.trace ++ [.failed (nextExchange f s.pos) e], answers := a :: more }
      ∧ nextExchange f s.pos ≠ .frameEnd
      ∧ ∃ last, (last = .close ∨ ∃ e2, a = .fail e2 ∧ last = .failed .frameEnd e2)
        ∧ advance (advance s)
          = settled c ⟨[.failed (nextExchange f s.pos) e, last], .err (.transportFailure e), more⟩ s

/-- R188: while a primitive has not returned, the block stays Active with the lock held, and nothing moves but the transport's
own answers. -/
def Obligations.UnansweredPrimitiveLeavesFrameOpen : Prop :=
  ∀ (s : State) (f : Frame) (more : List Answer), s.phase = .active f → s.answers = .notYet :: more →
    advance s = { s with answers := more }

/-- R189: a step issues at most one primitive, and only for the frame in flight; it adds one event or none to the history, and
returns one result or none. -/
def Obligations.OnePrimitivePerStep : Prop :=
  ∀ s t : State, step s = .next t →
    (t.trace = s.trace ∨ ∃ e f, s.phase = .active f ∧ t.trace = s.trace ++ [e])
      ∧ (t.results = s.results ∨ ∃ r, t.results = s.results ++ [r])

/-- The frame of a primitive: the sequencer never writes P, O, the callers' operations, the waiting callers, the issuer or the
choice of agents (R20, R264). -/
def Obligations.PrimitiveLeavesCallersAlone : Prop :=
  ∀ s : State,
    (advance s).profile = s.profile ∧ (advance s).opcodes = s.opcodes ∧ (advance s).requests = s.requests
      ∧ (advance s).waiting = s.waiting ∧ (advance s).issuer = s.issuer ∧ (advance s).schedule = s.schedule
      ∧ (advance s).scheduleDraws = s.scheduleDraws

/-- R186, R187, R257: once a frame is in flight, every step leaves it in flight under the same owner, or ends it with one result
for that owner and the block ready; nothing abandons it. -/
def Obligations.FrameInFlightRunsToItsResult : Prop :=
  ∀ (s t : State) (c : Caller) (f : Frame), step s = .next t → s.owner = some c → s.phase = .active f →
    (t.owner = some c ∧ t.phase = .active f) ∨ (Ready t ∧ ∃ r, t.results = s.results ++ [(c, r)])

/-- R186: with the lock free, waiting caller `k` takes it for its own frame and waits no longer; with the lock held, no waiting
caller can. -/
def Obligations.WaitingCallerTakesOnlyFreeLock : Prop :=
  ∀ (s : State) (k : Nat) (w : Waiter), s.waiting[k]? = some w →
    (s.owner = none → Move.grant k ∈ moves s
        ∧ runMove (.grant k) s = .next (locked w.caller w.frame { s with waiting := s.waiting.eraseIdx k }))
      ∧ (s.owner ≠ none → Move.grant k ∉ moves s)

/-- R52, R186, D28: every move that is possible is the next one under some schedule (the schedule as data: log 8). -/
def Obligations.AnyPossibleMoveMayBeNext : Prop :=
  ∀ (s : State) (m : Move), configured s = true → m ∈ moves s →
    ∃ schedule, step { s with schedule := schedule } = runMove m s

/-- R264, R94, R55: no step changes P or O. -/
def Obligations.ConfigurationNeverChanges : Prop :=
  ∀ s t : State, step s = .next t → t.profile = s.profile ∧ t.opcodes = s.opcodes

/-- R202: a step of a block in a legal state returns no UnsupportedResponseWidth. -/
def Obligations.TransactionsNeverGiveUnsupportedWidth : Prop :=
  ∀ s t : State, Inv s → step s = .next t →
    ∀ c k, (c, TransactionResult.err (.unsupportedResponseWidth k)) ∈ t.results →
      (c, TransactionResult.err (.unsupportedResponseWidth k)) ∈ s.results

/-- R52, R186, R229, R32: exactly which moves are possible. Request `k` can be taken if and only if its caller neither holds the
lock nor waits for it and issued no request before it that is still outstanding; waiting caller `k` can take the lock if and
only if the lock is free; a primitive can be issued if and only if a frame is in flight. -/
def Obligations.PossibleMovesAreExactlyThese : Prop :=
  ∀ (s : State) (k : Nat),
    (Move.issue k ∈ moves s ↔
        ∃ r, s.requests[k]? = some r ∧ s.owner ≠ some r.caller ∧ r.caller ∉ s.waiting.map Waiter.caller
          ∧ ∀ j q, j < k → s.requests[j]? = some q → q.caller ≠ r.caller)
      ∧ (Move.grant k ∈ moves s ↔ s.owner = none ∧ ∃ w, s.waiting[k]? = some w)
      ∧ (Move.primitive ∈ moves s ↔ ∃ f, s.phase = .active f)

/-- R7, R189, R227: a step of a constructed block carries out one possible move, after the choice is used up; where none is
possible it changes nothing, which is the model's choice (log 14). -/
def Obligations.StepCarriesOutOnePossibleMove : Prop :=
  ∀ s : State, configured s = true →
    (moves s = [] → step s = .next s)
      ∧ (moves s ≠ [] → ∃ m ∈ moves s, step s = runMove m (afterChoice s))
      ∧ ∃ schedule n, afterChoice s = { s with schedule := schedule, scheduleDraws := n }

/-! ## Steps and requests -/

/-- A step runs the decoded instruction: where the chosen move takes a request whose bytes decode to an operation, the step
is exec of it, after the choice is used up and the request taken. That a request may be the bytes of a frame, read back and
run, is the model's choice (log 12; R8 lists calls), and so is the decoder of the operands (log 11). -/
def Obligations.StepRunsDecodedFrame : Prop :=
  ∀ (s : State) (k : Nat) (c : Caller) (bs : List Byte) (i : Instr), configured s = true →
    chosen s = some (.issue k) → s.requests[k]? = some ⟨c, .wire bs⟩ → decode s.profile s.opcodes bs = .ok (i, []) →
    step s = exec i { afterChoice s with requests := s.requests.eraseIdx k, issuer := c }

/-- R8: where the chosen move takes a request that is an operation's call, the step is exec of it. -/
def Obligations.StepRunsCalledOperation : Prop :=
  ∀ (s : State) (k : Nat) (c : Caller) (i : Instr), configured s = true → chosen s = some (.issue k) →
    s.requests[k]? = some ⟨c, .call i⟩ →
    step s = exec i { afterChoice s with requests := s.requests.eraseIdx k, issuer := c }

/-- withFetchWord places a table word where the very next step runs it, and that step changes nothing else than the issuer
before it runs it. -/
def Obligations.FetchWordRunsInNextStep : Prop :=
  ∀ (s : State) (nbits w : Nat) (i : Instr) (rest : List Byte), configured s = true →
    decode s.profile s.opcodes (tableFrame nbits w) = .ok (i, rest) →
    step (s.withFetchWord nbits w) = exec i { s with issuer := freshCaller s }

/-- U13, R70, R71: a wire frame whose first byte is NotEmitted is refused by that byte. That a request may be a wire
frame is the model's choice (log 12). -/
def Obligations.NotEmittedByteIsRefused : Prop :=
  ∀ (s : State) (k : Nat) (c : Caller) (b : Byte) (bs : List Byte), configured s = true →
    chosen s = some (.issue k) → s.requests[k]? = some ⟨c, .wire (b :: bs)⟩ →
    classify s.profile s.opcodes b = .notEmitted → step s = .refused (.notEmitted b)

/-- R252, R22, R65: a block whose P or O is not well-formed takes no step. -/
def Obligations.UnconstructedBlockTakesNoStep : Prop :=
  ∀ s : State, configWf s.profile s.opcodes = false → step s = .refused .notConstructed

/-- R73, R72: operations are read from their spelling, register names (NAME and NAME_ADDR) through the profile's table; a name
outside the eleven is refused by name. -/
def Obligations.SpelledOperationsAreRead : Prop :=
  (∀ P, parseOp P "nop()" = .ok .nop ∧ parseOp P "softStop()" = .ok .softStop ∧ parseOp P "hardStop()" = .ok .hardStop
      ∧ parseOp P "softHiZ()" = .ok .softHiZ ∧ parseOp P "hardHiZ()" = .ok .hardHiZ
      ∧ parseOp P "resetDevice()" = .ok .resetDevice ∧ parseOp P "getStatus()" = .ok .getStatus
      ∧ parseOp P "setParam(9, -22)" = .ok (.setParam 9 (-22)) ∧ parseOp P "getParam(0x1A)" = .ok (.getParam 26)
      ∧ parseOp P "run(-5)" = .ok (.run (-5)) ∧ parseOp P "move(0x3FFFFF)" = .ok (.move 0x3FFFFF)
      ∧ parseOp P "goHome()" = .error (.noSuchOperation "goHome"))
    ∧ parseOp refA "setParam(KVAL_HOLD_ADDR, 22)" = .ok (.setParam 0x09 22)
    ∧ parseOp refA "getParam(SPEED)" = .ok (.getParam 0x04)
    ∧ parseOp refB "getParam(GATECFG1)" = .ok (.getParam 0x18)
    ∧ parseOp refA "getParam(GATECFG1)" = .error (.malformedSpelling "getParam(GATECFG1)")

/-! ## Status word -/

/-- R167, R29, U8: statusFlag refuses a name the layout lacks, and reads the entry of a name with the entry's own polarity. That
the first of two entries of one name counts, that a field value the enumeration does not list has no name, and that the
first of two listings of one value names it, are the model's choices (log 3). -/
def Obligations.StatusFlagFollowsEntryPolarity : Prop :=
  ∀ (P : Profile) (word : Nat),
    (∀ name, (∀ d ∈ P.layout, entryName d ≠ name) → statusFlag P word name = .error (.noSuchStatus name))
      ∧ ∀ (before after : List LayoutEntry) (e : LayoutEntry), P.layout = before ++ e :: after →
        (∀ d ∈ before, entryName d ≠ entryName e) →
        (∀ name bit, e = .flag name bit .high → statusFlag P word name = .ok (.asserted (word.testBit bit)))
          ∧ (∀ name bit, e = .flag name bit .low → statusFlag P word name = .ok (.asserted (!word.testBit bit)))
          ∧ (∀ name hi lo values, e = .field name hi lo values →
              statusFlag P word name
                = .ok (.field (word / 2 ^ lo % 2 ^ (hi + 1 - lo)) (values.lookup (word / 2 ^ lo % 2 ^ (hi + 1 - lo)))))

/-- R30, R168: in Variant A's layout BUSY is bit 1 set, so 0x8201 is not busy and 0x8203 is; in the reference layout of
Variant B (the model's choice from the family, log 3) the reading is the other way round. -/
def Obligations.BusyReadsByVariant : Prop :=
  (∀ word : Nat, statusFlag refA word "BUSY" = .ok (.asserted (word.testBit 1)))
    ∧ statusFlag refA 0x8201 "BUSY" = .ok (.asserted false) ∧ statusFlag refA 0x8203 "BUSY" = .ok (.asserted true)
    ∧ statusFlag refB 0x8201 "BUSY" = .ok (.asserted true)

/-! ## Invariants and the headline -/

/-- The invariant (Safety.lean) holds at the reset state of every block that can be built (R250, R252). -/
def Obligations.ResetMeetsInvariant : Prop :=
  (∀ (P : Profile) (O : OpcodeSet), configWf P O = true → Inv (State.init P O)) ∧ Inv State.reset

/-- R34, R47, R51, R52, R71, R182, R255, R256: every step keeps the invariant: the sequencer and the lock agree, each waiting
caller waits once, the chip-side byte counter of the wire is the sequencer's own position, and the wire is, byte for byte,
ended transactions of operations' frames (a window closed without a failure is a whole frame), never mixed, followed in
the open window by the first exchanges of the frame in flight. -/
def Obligations.StepKeepsInvariant : Prop :=
  ∀ s t : State, Inv s → step s = .next t → Inv t

/-- R71, R72: every step keeps it so that the frame in flight and the waiting frames are those of operations. -/
def Obligations.StepKeepsFramesEncoded : Prop :=
  ∀ s t : State, FramesEncoded s → step s = .next t → FramesEncoded t

/-- R52, R181, R201, R225: an operation issued by the only active caller runs, by steps of the machine alone, to the
transaction of its frame and its result; one that the encoder refuses returns its error in one step. That an operation may
stand on `req` as a wire frame or a spelling is the model's choice (log 12). -/
def Obligations.SoleCallerRunsToResult : Prop :=
  ∀ (s : State) (c : Caller) (form : Form) (i : Instr), configured s = true → Ready s → s.waiting = [] →
    s.requests = [⟨c, form⟩] → readForm s.profile s.opcodes form = .ok i →
    (∀ f x, encodeOp s.profile s.opcodes i = .ok f → transaction f s.answers = some x →
        ∃ n, Host.Core.run core n s = .next (settled c x { s with requests := [], issuer := c }))
      ∧ (∀ e, encodeOp s.profile s.opcodes i = .error e →
          step s = .next { s with requests := [], issuer := c, results := s.results ++ [(c, .err e)] })
end

