-- ==== Sys2Proof/Tests/Slice0.lean ====
section
/-! SUPPORT. Small tests, and a witness for the hypotheses of every statement that has some. Expected results come from
spec/95_test_vectors.md (vector ids in the comments) or from the encoding rules by hand. -/

namespace Sys2Proof.Tests

open Sys2Proof Sys2Proof.Machine Sys2Proof.Safety

/-! ## Builders -/

/-- Reset for a profile, with these transport answers. -/
def ready (P : Profile) (answers : List Answer) : State := { State.init P refO with answers := answers }

/-- Caller 7's frame in flight. -/
def inFlight (f : Frame) (w : Window) (pos : Nat) (rx : List Byte) (trace : List Event) (answers : List Answer) : State :=
  { ready refA answers with phase := .active f, window := w, pos := pos, rx := rx, owner := some 7, trace := trace }

/-- The bytes of the frame in flight and its response length. -/
def frameOf (o : Host.Outcome State Fault Refusal) : Option (List Byte × Nat) :=
  match o with
  | .next t =>
    match t.phase with
    | .active f => some (sentBytes f, f.rspLen)
    | .idle => none
  | _ => none

/-- The results after a step. -/
def resultsOf (o : Host.Outcome State Fault Refusal) : List (Caller × TransactionResult) :=
  match o with
  | .next t => t.results
  | _ => []

/-- getParam(0x04) and nop, as frames. -/
def speedRead : Frame := ⟨0x24, [], 3⟩
def nopFrame : Frame := ⟨0x00, [], 0⟩
def speedWrite : Frame := ⟨0x04, [0x01, 0x23, 0x45], 0⟩

/-! ## Ill-formed terms are refused -/

theorem test_illFormed_setParam_zero : (Instr.setParam 0 5).wellFormed refA = false := by decide
theorem test_illFormed_setParam_bound : (Instr.setParam 0x1A 5).wellFormed refA = false := by decide
theorem test_illFormed_setParam_wide : (Instr.setParam 0x09 256).wellFormed refA = false := by decide
theorem test_illFormed_setParam_negative : (Instr.setParam 0x09 (-1)).wellFormed refA = false := by decide
theorem test_illFormed_getParam_zero : (Instr.getParam 0).wellFormed refA = false := by decide
theorem test_illFormed_getParam_bound : (Instr.getParam 0x1C).wellFormed refB = false := by decide
theorem test_illFormed_run_high : (Instr.run 0x1000000).wellFormed refA = false := by decide
theorem test_illFormed_run_low : (Instr.run (-0x1000001)).wellFormed refA = false := by decide
theorem test_illFormed_move_high : (Instr.move 0x1000000).wellFormed refA = false := by decide
theorem test_illFormed_move_low : (Instr.move (-0x1000001)).wellFormed refA = false := by decide

/-- RM19 (WF1), a gap (WF2, R93's example), RM20 (WF3), two entries on one bit and a bit above 15 (WF4), and an entry without a
bit (log 3). -/
theorem test_makeProfile_refusals :
    makeProfile .A 0x21 [] [] = .error .wf1
      ∧ makeProfile .A 1 [] [] = .error .wf1
      ∧ makeProfile .A 3 [(1, ⟨"X", 8⟩)] [] = .error (.wf2 2)
      ∧ makeProfile .A 2 [(1, ⟨"X", 3⟩)] [] = .error (.wf3 1)
      ∧ makeProfile .A 2 [(1, ⟨"X", 23⟩)] [] = .error (.wf3 1)
      ∧ makeProfile .A 2 [(1, ⟨"X", 4⟩)] [.flag "P" 3 .high, .field "Q" 4 3 []] = .error .wf4
      ∧ makeProfile .A 2 [(1, ⟨"X", 4⟩)] [.flag "P" 16 .high] = .error .wf4
      ∧ makeProfile .A 2 [(1, ⟨"X", 4⟩)] [.field "Q" 2 3 []] = .error .wf4 := by
  decide

/-- R93: entries at 0 and at or above N are ignored; both bounds of WF1 and of WF3 are let pass. -/
theorem test_makeProfile_accepts :
    makeProfile .B 2 [(0, ⟨"Z", 99⟩), (1, ⟨"X", 22⟩), (2, ⟨"Y", 99⟩)] [.flag "P" 15 .low]
      = .ok ⟨.B, 2, [⟨"X", 22⟩], [.flag "P" 15 .low]⟩ := by
  rfl

/-- O1 to O4 of R65, each broken alone. -/
theorem test_opcodes_refusals :
    opcodesO1 { refO with getFlag := 0x40#8 } = false ∧ opcodesO2 { refO with dirMask := 0x03#8 } = false
      ∧ opcodesO2 { refO with runBase := 0x51#8 } = false ∧ opcodesO3 { refO with softStop := 0xD0#8 } = false
      ∧ opcodesO4 refA { refO with hardStop := 0x19#8 } = false ∧ opcodesO4 refA { refO with hardStop := 0x39#8 } = false
      ∧ opcodesO4 refA { refO with hardStop := 0x1A#8 } = true := by
  decide

/-- R65: the reference opcodes meet O1 to O4 with both reference profiles. -/
theorem test_reference_configured_A : configWf refA refO = true := by decide
theorem test_reference_configured_B : configWf refB refO = true := by rfl

/-! ## Decoding: words written out from R62, R63, R64 -/

theorem test_decode_nop : decodeTableWord 8 0b00000000 = some .nop := by decide
/-- setParam of KVAL_HOLD, value 0x16: opcode bits 000 01001, then the byte 0x16 (E6). -/
theorem test_decode_setParam : decode refA refO [0b00001001, 0b00010110] = .ok (.setParam 9 22, []) := by decide
theorem test_decode_getParam : decodeTableWord 8 0b00100100 = some (.getParam 4) := by decide
/-- MV3: 0101000 with direction 0, magnitude 5: the bytes 0x50, 0x00, 0x00, 0x05, the first one lowest. -/
theorem test_decode_run : decodeTableWord 32 0b00000101_00000000_00000000_01010000 = some (.run (-5)) := by decide
/-- MV14: 0100000 with direction 1, magnitude 0x3FFFFF. -/
theorem test_decode_move : decode refA refO [0b01000001, 0x3F, 0xFF, 0xFF] = .ok (.move 0x3FFFFF, []) := by decide
theorem test_decode_softStop : decodeTableWord 8 0b10110000 = some .softStop := by decide
theorem test_decode_hardStop : decodeTableWord 8 0b10111000 = some .hardStop := by decide
theorem test_decode_softHiZ : decodeTableWord 8 0b10100000 = some .softHiZ := by decide
theorem test_decode_hardHiZ : decodeTableWord 8 0b10101000 = some .hardHiZ := by decide
theorem test_decode_resetDevice : decodeTableWord 8 0b11000000 = some .resetDevice := by decide
theorem test_decode_getStatus : decodeTableWord 8 0b11010000 = some .getStatus := by decide

/-- CL4, CL6, CL7, CL11: bytes that are no opcode. -/
theorem test_decode_notEmitted :
    decodeTableWord 8 0x1A = none ∧ decodeTableWord 8 0x20 = none ∧ decodeTableWord 8 0x3A = none
      ∧ decodeTableWord 8 0x60 = none := by
  decide

/-- CL1 to CL11, and the two Variant B lines below them. -/
theorem test_classify :
    classify refA refO 0x00 = .command .nop 0 0 ∧ classify refA refO 0x09 = .command (.setParam 9) 1 0
      ∧ classify refA refO 0x19 = .command (.setParam 0x19) 2 0 ∧ classify refA refO 0x1A = .notEmitted
      ∧ classify refA refO 0x24 = .command (.getParam 4) 0 3 ∧ classify refA refO 0x51 = .command .run 3 0
      ∧ classify refA refO 0x40 = .command .move 3 0 ∧ classify refA refO 0xD0 = .command .getStatus 0 2
      ∧ classify refB refO 0x1A = .command (.setParam 0x1A) 2 0 ∧ classify refB refO 0x3B = .command (.getParam 0x1B) 0 2 := by
  decide

/-- A second byte of the table's numbering is the next byte on the wire. -/
theorem test_tableFrame_order : decodeTableWord 16 0x1609 = some (.setParam 9 0x16) := by decide

/-! ## Codec, decoder and status word -/

/-- BC7, BC8, BC9, BC11, BC12, E4. -/
theorem test_encode :
    Machine.encode 0x1FF 1 = [0xFF] ∧ Machine.encode (-1) 3 = [0xFF, 0xFF, 0xFF] ∧ Machine.encode (-256) 2 = [0xFF, 0x00]
      ∧ Machine.encode 0x1234567 3 = [0x23, 0x45, 0x67] ∧ Machine.encode 5 0 = [] := by
  decide

/-- BC13, BC14, BC15. -/
theorem test_decodeBE : decodeBE [] = 0 ∧ decodeBE [0x12, 0x34] = 0x1234 ∧ decodeBE [0xFF, 0xFF, 0xFF] = 0xFFFFFF := by decide

/-- DR1, DR2, DR6, DR7. -/
theorem test_decodeResponse :
    decodeResponse [] = .unit ∧ decodeResponse [0x00] = .value 0 ∧ decodeResponse [0xFF, 0xFF, 0xFF] = .value 0xFFFFFF
      ∧ decodeResponse [0, 0, 0, 1] = .err (.unsupportedResponseWidth 4) := by
  decide

/-- SF3, SF6, SF9, SF15, SF17, SF18. -/
theorem test_statusFlag :
    statusFlag refB 0x8201 "BUSY" = .ok (.asserted true) ∧ statusFlag refA 0x8201 "UVLO" = .ok (.asserted false)
      ∧ statusFlag refA 0x8201 "MOT_STATUS" = .ok (.field 0 (some "stopped"))
      ∧ statusFlag refB 0x7E03 "TH_STATUS" = .ok (.field 3 (some "device shutdown"))
      ∧ statusFlag refA 0x0010 "DIR" = .ok (.field 1 (some "forward"))
      ∧ statusFlag refA 0x8201 "GATECFG1" = .error (.noSuchStatus "GATECFG1") := by
  refine ⟨?_, ?_, ?_, ?_, ?_, ?_⟩ <;> rfl

/-! ## Operations: the frame each hands over -/

/-- FC1 to FC6. -/
theorem test_exec_nop : frameOf (exec .nop (ready refA [])) = some ([0x00], 0) := by decide
theorem test_exec_softStop : frameOf (exec .softStop (ready refA [])) = some ([0xB0], 0) := by decide
theorem test_exec_hardStop : frameOf (exec .hardStop (ready refA [])) = some ([0xB8], 0) := by decide
theorem test_exec_softHiZ : frameOf (exec .softHiZ (ready refA [])) = some ([0xA0], 0) := by decide
theorem test_exec_hardHiZ : frameOf (exec .hardHiZ (ready refA [])) = some ([0xA8], 0) := by decide
theorem test_exec_resetDevice : frameOf (exec .resetDevice (ready refA [])) = some ([0xC0], 0) := by decide
/-- FC7, FC10. -/
theorem test_exec_getStatus :
    frameOf (exec .getStatus (ready refA [])) = some ([0xD0], 2) ∧ frameOf (exec .getStatus (ready refB [])) = some ([0xD0], 2) := by
  decide
/-- SP1, SP4, SP6, SP9, SP10 (B), SP12 (B). -/
theorem test_exec_setParam :
    frameOf (exec (.setParam 0x09 22) (ready refA [])) = some ([0x09, 0x16], 0)
      ∧ frameOf (exec (.setParam 0x01 (-1)) (ready refA [])) = some ([0x01, 0x3F, 0xFF, 0xFF], 0)
      ∧ frameOf (exec (.setParam 0x04 0x1FFFFF) (ready refA [])) = some ([0x04, 0x0F, 0xFF, 0xFF], 0)
      ∧ frameOf (exec (.setParam 0x11 0x1F) (ready refA [])) = some ([0x11, 0x0F], 0)
      ∧ frameOf (exec (.setParam 0x13 0x1F) (ready refB [])) = some ([0x13, 0x1F], 0)
      ∧ frameOf (exec (.setParam 0x15 0xFFF) (ready refB [])) = some ([0x15, 0x07, 0xFF], 0) := by
  decide
/-- SP16, SP17, SP18, SP20. -/
theorem test_exec_setParam_address :
    resultsOf (exec (.setParam 0 5) (ready refA [])) = [(0, .err (.invalidRegister 0))]
      ∧ resultsOf (exec (.setParam 0x1A 5) (ready refA [])) = [(0, .err (.invalidRegister 0x1A))]
      ∧ frameOf (exec (.setParam 0x1A 5) (ready refB [])) = some ([0x1A, 0x00, 0x05], 0)
      ∧ resultsOf (exec (.setParam 1000 0) (ready refB [])) = [(0, .err (.invalidRegister 1000))] := by
  decide
/-- GP1, GP6, GP7, GP8. -/
theorem test_exec_getParam :
    frameOf (exec (.getParam 0x04) (ready refA [])) = some ([0x24], 3)
      ∧ frameOf (exec (.getParam 0x19) (ready refA [])) = some ([0x39], 2)
      ∧ frameOf (exec (.getParam 0x19) (ready refB [])) = some ([0x39], 1)
      ∧ frameOf (exec (.getParam 0x1B) (ready refB [])) = some ([0x3B], 2) := by
  decide
/-- GP9, GP10. -/
theorem test_exec_getParam_address :
    resultsOf (exec (.getParam 0) (ready refA [])) = [(0, .err (.invalidRegister 0))]
      ∧ resultsOf (exec (.getParam 0x1A) (ready refA [])) = [(0, .err (.invalidRegister 0x1A))] := by
  decide
/-- MV1, MV3, MV7, MV10. -/
theorem test_exec_run :
    frameOf (exec (.run 0) (ready refA [])) = some ([0x51, 0, 0, 0], 0)
      ∧ frameOf (exec (.run (-5)) (ready refA [])) = some ([0x50, 0, 0, 5], 0)
      ∧ frameOf (exec (.run 0x1234567) (ready refA [])) = some ([0x51, 0x23, 0x45, 0x67], 0)
      ∧ frameOf (exec (.run (-2147483648)) (ready refA [])) = some ([0x50, 0, 0, 0], 0) := by
  decide
/-- MV11, MV14, MV15. -/
theorem test_exec_move :
    frameOf (exec (.move (-200)) (ready refA [])) = some ([0x40, 0, 0, 0xC8], 0)
      ∧ frameOf (exec (.move 0x3FFFFF) (ready refA [])) = some ([0x41, 0x3F, 0xFF, 0xFF], 0)
      ∧ frameOf (exec (.move 0x400000) (ready refA [])) = some ([0x41, 0x40, 0x00, 0x00], 0) := by
  decide

/-! ## The sequencer, one primitive each (spec/95_test_vectors.md 2.6) -/

/-- The state table of getParam(0x04): the last read. -/
theorem test_sequencer_read :
    advance (inFlight speedRead .opened 3 [0x01, 0x23] [] [.ok 0x45])
      = inFlight speedRead .opened 4 [0x01, 0x23, 0x45] [.rx 0x45] [] := by
  rfl

/-- The state table of getParam(0x04): End. -/
theorem test_sequencer_end :
    advance (inFlight speedRead .opened 4 [0x01, 0x23, 0x45] [] [.ok 0])
      = { ready refA [] with trace := [.close], results := [(7, .value 0x012345)] } := by
  rfl

/-- TR2: the third TxByte fails; End is next. TR4: FrameBegin fails, and no End follows. -/
theorem test_sequencer_failures :
    (advance (inFlight speedWrite .opened 2 [] [] [.fail 1])).trace = [.failed (.txByte 0x23) 1]
      ∧ advance (inFlight nopFrame .shut 0 [] [] [.fail 3])
        = { ready refA [] with trace := [.failed .frameBegin 3], results := [(7, .err (.transportFailure 3))] } := by
  constructor <;> rfl

/-- TR5: FrameEnd fails with e4. TR6: after e5, a failing FrameEnd is dropped. -/
theorem test_sequencer_frameEnd_failures :
    (advance (inFlight nopFrame .opened 1 [] [] [.fail 4])).results = [(7, .err (.transportFailure 4))]
      ∧ (advance (inFlight nopFrame (.failing 5) 0 [] [] [.fail 6])).results = [(7, .err (.transportFailure 5))] := by
  constructor <;> rfl

/-- Two callers at once: whichever is chosen goes first. -/
theorem test_two_callers :
    (chosen { ready refA [] with requests := [⟨1, .call (.setParam 9 22)⟩, ⟨2, .call .nop⟩], schedule := [0] } = some (.issue 0))
      ∧ chosen { ready refA [] with requests := [⟨1, .call (.setParam 9 22)⟩, ⟨2, .call .nop⟩], schedule := [1] } = some (.issue 1) := by
  decide

/-- The host's word for GETSTATUS runs in the first step after reset. -/
theorem test_fetchWord : frameOf (step (State.reset.withFetchWord 8 0xD0)) = some ([0xD0], 2) := by rfl

/-- R26 (iii), R27 and log 20: the gate registers before CONFIG and STATUS, at the least N with room for them and below it. -/
theorem test_gateAddrs :
    gateAddrs refB = [0x18, 0x19] ∧ gateAddrs refA = [] ∧ gateAddrs { refB with N := 5 } = [1, 2]
      ∧ gateAddrs { refB with N := 4 } = [] := by
  decide

/-- log 13: a text that is a numeral counts as one although a register is named so, and the lowest address of a name counts. -/
theorem test_parseAddr_choices :
    parseAddr { refA with rows := [⟨"9", 8⟩, ⟨"X", 8⟩, ⟨"X", 8⟩] } "9".toList = some 9
      ∧ parseAddr { refA with rows := [⟨"9", 8⟩, ⟨"X", 8⟩, ⟨"X", 8⟩] } "X".toList = some 2 := by
  constructor <;> rfl

/-- No operation is the byte 0x04 alone. -/
theorem bare_0x04_is_no_frame : ¬ Emitted refA refO ⟨0x04, [], 0⟩ := by
  rintro ⟨i, hi⟩
  cases i with
  | setParam a v =>
    simp only [encodeOp, setParamFrame] at hi
    split at hi
    · rename_i w hw
      have hn := bytesNeeded_range (width_range (by decide : profileWf refA = true) hw)
      have hlen := congrArg (fun r => (r.toOption.map fun g => g.args.length)) hi
      simp only [Except.toOption, Option.map_some, encode_length, List.length_nil, Option.some.injEq] at hlen
      omega
    · cases hi
  | getParam a =>
    simp only [encodeOp, getParamFrame] at hi
    split at hi
    · have hbit := congrArg (fun r => (r.toOption.map fun g => g.op.getLsbD 5)) hi
      simp [Except.toOption, getOpcode, refO] at hbit
    · cases hi
  | run v => simp [encodeOp, motionFrame, signMag, Machine.encode, encodeNat, motionBytes] at hi
  | move v => simp [encodeOp, motionFrame, signMag, Machine.encode, encodeNat, motionBytes] at hi
  | _ => revert hi; decide

/-- R182: a setParam frame closed after its opcode, without a failure, is no ended transaction of any operation. -/
theorem test_cut_frame_is_no_trace (f : Frame) (hf : Emitted refA refO f) : ¬ FrameTrace f [.begin, .tx 0x04, .close] := by
  intro h
  generalize htrace : [Event.begin, .tx 0x04, .close] = trace at h
  cases h with
  | whole rs hrs =>
    obtain ⟨op, args, rspLen⟩ := f
    have hsame : op = 0x04 ∧ args = [] ∧ rs = [] := by
      cases args <;> cases rs <;> simp_all [frameEvents]
    obtain ⟨rfl, rfl, rfl⟩ := hsame
    cases (show 0 = rspLen from hrs)
    exact bare_0x04_is_no_frame hf
  | unopened e => simp at htrace
  | cut n rs p e last =>
    have hmem : Event.failed p e ∈ [Event.begin, .tx 0x04, .close] := by rw [htrace]; simp
    simp at hmem
  | unclosed rs e =>
    have hmem : Event.failed .frameEnd e ∈ [Event.begin, .tx 0x04, .close] := by rw [htrace]; simp
    simp at hmem

/-! ## Witnesses: a state and operands that meet the hypotheses of each statement -/

/-- WidthOfEveryAddress, RegisterBytesFollowWidth: both clauses, at the bounds of the range. -/
theorem witness_WidthOfEveryAddress :
    profileWf refA = true ∧ valid refA 0x01 = true ∧ valid refA 0x19 = true ∧ valid refA 0 = false
      ∧ valid refA 0x1A = false := by
  decide

/-- RegisterBytesFollowWidth: a register of each byte count. -/
theorem witness_RegisterBytesFollowWidth :
    regBytes refA 0x11 = .ok 1 ∧ regBytes refA 0x02 = .ok 2 ∧ regBytes refA 0x01 = .ok 3
      ∧ regBytes refA 0 = .error (.invalidRegister 0) := by
  decide

/-- MakeProfileAcceptsExactlyWellFormed: the longest table, and an accepted shortest one. -/
theorem witness_MakeProfileAcceptsExactlyWellFormed :
    (∃ P, makeProfile .B 0x20 ((List.range 0x20).map fun a => (a, ⟨"R", 4⟩)) [] = .ok P)
      ∧ ∃ P, makeProfile .A 2 [(1, ⟨"X", 22⟩)] [] = .ok P :=
  ⟨⟨_, rfl⟩, ⟨_, rfl⟩⟩

/-- The table of the reference Variant A as a partial function. -/
def tableA : List (Nat × RegisterRow) := (List.range' 1 0x19).zip (rowsA 8)

/-- BootGivesResetStateOrNothing: a profile built (R93's example: the reference Variant A succeeds) and one refused; O4 at the
bound of the valid addresses, on either side. -/
theorem witness_BootGivesResetStateOrNothing :
    makeProfile .A 0x1A tableA layoutA = .ok refA
      ∧ boot .A 0x1A tableA layoutA refO = .ok State.reset
      ∧ boot .A 0x1A tableA layoutA { refO with hardStop := 0x39#8 } = .error .opcodeSet
      ∧ boot .A 0x1A tableA layoutA { refO with hardStop := 0x3A#8 }
        = .ok (State.init refA { refO with hardStop := 0x3A#8 })
      ∧ makeProfile .A 0x1A (tableA.drop 1) layoutA = .error (.wf2 1) := by
  refine ⟨by rfl, by rfl, by rfl, by rfl, by rfl⟩

/-- CodecRoundTripLaws (law 3), WrittenBytesReadBackMasked: the widest and the narrowest register. -/
theorem witness_CodecRoundTripLaws :
    profileWf refA = true ∧ width refA 0x01 = .ok 22 ∧ width refA 0x11 = .ok 4 := by
  decide

/-- ResponseDecodedByLength: 0, 1, 3 and 4 bytes. -/
theorem witness_ResponseDecodedByLength :
    ([] : List Byte).length = 0 ∧ ([5] : List Byte).length = 1 ∧ ([5, 6, 7] : List Byte).length = 3
      ∧ ([5, 6, 7, 8] : List Byte).length = 4 := by
  decide

/-- SignMagnitudeOfEveryInteger: 0 and -1. OppositeMotionsDifferInDirectionBit: 1, -2^24. -/
theorem witness_SignMagnitudeOfEveryInteger :
    (0 : Int) ≤ 0 ∧ (-1 : Int) < 0 ∧ (1 : Int) ≠ 0 ∧ (-16777216 : Int) ≠ 0 ∧ configWf refA refO = true := by
  decide

/-- RegisterOpcodeFields: the bounds of the range. -/
theorem witness_RegisterOpcodeFields :
    configWf refB refO = true ∧ valid refB 0x01 = true ∧ valid refB 0x1B = true :=
  ⟨by decide, by decide, by decide⟩

/-- ClassifyNamesEveryEncodedOperation, ReservedOpcodesAreNeverEncoded, DecodeOfEncodedIsCanonical: operations the encoder
accepts, one with operands its frame does not carry whole; the reserved addresses run from 0x1A to 0x1F. -/
theorem witness_encoded_operations :
    encodeOp refA refO .nop = .ok ⟨0x00, [], 0⟩
      ∧ encodeOp refA refO (.setParam 0x09 0x1FF) = .ok ⟨0x09, [0xFF], 0⟩
      ∧ Sys2Proof.encode refA refO (.run (-2147483648)) = .ok [0x50, 0, 0, 0]
      ∧ refA.N ≤ 0x1A ∧ 0x1F ≤ 0x1F := by
  decide

/-- DecodeInvertsEncode: every operand at the bounds of what its frame can carry. -/
theorem witness_DecodeInvertsEncode :
    (Instr.setParam 0x01 0).wellFormed refA = true ∧ (Instr.setParam 0x01 0x3FFFFF).wellFormed refA = true
      ∧ (Instr.getParam 0x19).wellFormed refA = true ∧ (Instr.run (-16777216)).wellFormed refA = true
      ∧ (Instr.move 16777215).wellFormed refA = true := by
  decide

set_option maxRecDepth 4000 in
/-- EncodeInvertsDecode: a register frame and the motion frame of `-2^24`, with bytes after them. -/
theorem witness_EncodeInvertsDecode :
    decode refA refO [0x09, 0x16, 0x00] = .ok (.setParam 9 22, [0x00])
      ∧ decode refA refO (tableFrame 40 0xB000000050) = .ok (.run (-2 ^ 24), [0xB0])
      ∧ (Instr.setParam 9 22).wellFormed refA = true ∧ (Instr.run (-2 ^ 24)).wellFormed refA = true :=
  ⟨by rfl, by decide, by decide, by decide⟩

/-- What RunsFrame's hypotheses ask of the transport, with the reads `rs`. -/
def Answered (f : Frame) (rs : List Byte) (s : State) : Prop :=
  configured s = true ∧ s.owner = none ∧ rs.length = f.rspLen ∧ s.answers = okAnswers f 0 rs ++ [.notYet]
    ∧ transaction f s.answers = some ⟨frameEvents f rs, decodeResponse rs, [.notYet]⟩

/-- Reset for a profile, with a transport that completes `f` with the reads `rs`. -/
def answered (P : Profile) (f : Frame) (rs : List Byte) : State := ready P (okAnswers f 0 rs ++ [.notYet])

theorem witness_NopSendsItsOpcode : Answered ⟨0x00, [], 0⟩ [] (answered refA ⟨0x00, [], 0⟩ []) :=
  ⟨by decide, rfl, rfl, rfl, rfl⟩
theorem witness_StopsAndHiZSendTheirOpcodes_softStop : Answered ⟨0xB0, [], 0⟩ [] (answered refA ⟨0xB0, [], 0⟩ []) :=
  ⟨by decide, rfl, rfl, rfl, rfl⟩
theorem witness_StopsAndHiZSendTheirOpcodes_hardStop : Answered ⟨0xB8, [], 0⟩ [] (answered refA ⟨0xB8, [], 0⟩ []) :=
  ⟨by decide, rfl, rfl, rfl, rfl⟩
theorem witness_StopsAndHiZSendTheirOpcodes_softHiZ : Answered ⟨0xA0, [], 0⟩ [] (answered refA ⟨0xA0, [], 0⟩ []) :=
  ⟨by decide, rfl, rfl, rfl, rfl⟩
theorem witness_StopsAndHiZSendTheirOpcodes_hardHiZ : Answered ⟨0xA8, [], 0⟩ [] (answered refA ⟨0xA8, [], 0⟩ []) :=
  ⟨by decide, rfl, rfl, rfl, rfl⟩
theorem witness_ResetDeviceSendsItsOpcode : Answered ⟨0xC0, [], 0⟩ [] (answered refA ⟨0xC0, [], 0⟩ []) :=
  ⟨by decide, rfl, rfl, rfl, rfl⟩
theorem witness_GetStatusReadsTwoBytes : Answered ⟨0xD0, [], 2⟩ [0x82, 0x01] (answered refA ⟨0xD0, [], 2⟩ [0x82, 0x01]) :=
  ⟨by decide, rfl, rfl, rfl, rfl⟩
theorem witness_SetParamSendsMaskedValue :
    Answered ⟨0x04, [0x0F, 0xFF, 0xFF], 0⟩ [] (answered refA ⟨0x04, [0x0F, 0xFF, 0xFF], 0⟩ []) ∧ width refA 0x04 = .ok 20
      ∧ valid refA 0 = false ∧ valid refA 0x1A = false :=
  ⟨⟨by decide, rfl, rfl, rfl, rfl⟩, by decide, by decide, by decide⟩
theorem witness_GetParamReadsRegister :
    Answered ⟨0x39, [], 2⟩ [0x7E, 0x03] (answered refA ⟨0x39, [], 2⟩ [0x7E, 0x03]) ∧ width refA 0x19 = .ok 16
      ∧ valid refA 0 = false ∧ valid refA 0x1A = false :=
  ⟨⟨by decide, rfl, rfl, rfl, rfl⟩, by decide, by decide, by decide⟩
theorem witness_RunSendsSignAndMagnitude :
    Answered ⟨0x50, [0, 0, 5], 0⟩ [] (answered refA ⟨0x50, [0, 0, 5], 0⟩ []) :=
  ⟨by decide, rfl, rfl, rfl, rfl⟩
theorem witness_MoveSendsSignAndMagnitude :
    Answered ⟨0x41, [0x40, 0, 0], 0⟩ [] (answered refB ⟨0x41, [0x40, 0, 0], 0⟩ []) :=
  ⟨by decide, rfl, rfl, rfl, rfl⟩

/-- A failing transport too: getParam(0x04) whose second read fails (TR3). -/
theorem witness_SequencerRefinesTransaction :
    transaction speedRead [.ok 0, .ok 0, .ok 0x01, .notYet, .fail 2, .ok 0, .ok 9]
      = some ⟨[.begin, .tx 0x24, .rx 0x01, .failed .rxByte 2, .close], .err (.transportFailure 2), [.ok 9]⟩ := by
  rfl

/-- InvalidAddressRefusedBeforeAnyExchange: the lock held, an invalid and a valid address. -/
theorem witness_InvalidAddressRefusedBeforeAnyExchange :
    configured (inFlight nopFrame .opened 0 [] [] []) = true ∧ (inFlight nopFrame .opened 0 [] [] []).owner = some 7
      ∧ valid refA 0 = false ∧ valid refA 0x1A = false ∧ valid refA 0x01 = true ∧ valid refA 0x19 = true :=
  ⟨by decide, rfl, by decide, by decide, by decide, by decide⟩

theorem witness_HeldLockMakesCallerWait :
    (inFlight speedRead .opened 0 [] [] []).owner = some 7 ∧ encodeOp refA refO .nop = .ok nopFrame := by
  constructor <;> rfl

/-- ExecChangesOnlyWhatItHandsOver: with the lock free, held, and a result returned. -/
theorem witness_ExecChangesOnlyWhatItHandsOver :
    (∃ t, exec .nop State.reset = .next t) ∧ State.reset.owner = none
      ∧ (∃ t, exec .nop (inFlight speedRead .opened 0 [] [] []) = .next t)
      ∧ (inFlight speedRead .opened 0 [] [] []).owner ≠ none
      ∧ ∃ t, exec (.getParam 0) State.reset = .next t ∧ t.results ≠ State.reset.results :=
  ⟨⟨_, rfl⟩, rfl, ⟨_, rfl⟩, by decide, _, rfl, by decide⟩

theorem witness_CompletedTransactionCounts : ([0x01, 0x23, 0x45] : List Byte).length = speedRead.rspLen := by decide

/-- FailedExchangeReleasesAndReports: at the first and at the last exchange, with FrameEnd answering ok and failing. -/
theorem witness_FailedExchangeReleasesAndReports :
    (∃ s : State, s.phase = .active speedRead ∧ s.owner = some 7 ∧ s.window = .opened ∧ s.pos = 0
        ∧ s.pos < exchangeCount speedRead ∧ s.answers = .fail 5 :: .fail 6 :: [])
      ∧ ∃ s : State, s.phase = .active speedRead ∧ s.owner = some 7 ∧ s.window = .opened ∧ s.pos = 3
        ∧ s.pos < exchangeCount speedRead ∧ s.answers = .fail 5 :: .ok 0 :: [] :=
  ⟨⟨inFlight speedRead .opened 0 [] [] [.fail 5, .fail 6], rfl, rfl, rfl, rfl, by decide, rfl⟩,
    ⟨inFlight speedRead .opened 3 [1, 2] [] [.fail 5, .ok 0], rfl, rfl, rfl, rfl, by decide, rfl⟩⟩

theorem witness_UnansweredPrimitiveLeavesFrameOpen :
    (inFlight speedRead .shut 0 [] [] [.notYet]).phase = .active speedRead
      ∧ (inFlight speedRead .shut 0 [] [] [.notYet]).answers = .notYet :: [] :=
  ⟨rfl, rfl⟩

/-- A frame in flight that opens its window, one that ends, and a request taken: steps that answer a next state. -/
def opening : State := inFlight speedRead .shut 0 [] [] [.ok 0]
def ending : State :=
  inFlight nopFrame .opened 1 [] (frameEvents speedRead [0x01, 0x23, 0x45] ++ [.begin, .tx 0x00]) [.ok 0]
def calling : State := { State.reset with requests := [⟨3, .call .nop⟩] }

/-- OnePrimitivePerStep, ConfigurationNeverChanges, FrameInFlightRunsToItsResult: the frame stays, and the frame ends. -/
theorem witness_steps :
    (∃ t, step opening = .next t ∧ t.owner = some 7 ∧ t.trace = opening.trace ++ [.begin])
      ∧ (∃ t, step ending = .next t ∧ t.owner = none ∧ t.results = [(7, .unit)])
      ∧ ∃ t, step calling = .next t ∧ t.owner = some 3 ∧ t.phase = .active nopFrame :=
  ⟨⟨_, rfl, rfl, rfl⟩, ⟨_, rfl, rfl, rfl⟩, ⟨_, rfl, rfl, rfl⟩⟩

/-- WaitingCallerTakesOnlyFreeLock: both clauses. -/
theorem witness_WaitingCallerTakesOnlyFreeLock :
    (∃ s : State, s.waiting[0]? = some ⟨4, nopFrame⟩ ∧ s.owner = none)
      ∧ ∃ s : State, s.waiting[0]? = some ⟨4, nopFrame⟩ ∧ s.owner ≠ none :=
  ⟨⟨{ State.reset with waiting := [⟨4, nopFrame⟩] }, rfl, rfl⟩, ⟨{ opening with waiting := [⟨4, nopFrame⟩] }, rfl, by decide⟩⟩

/-- Two callers wait, and one more calls. -/
def crowd : State :=
  { State.reset with waiting := [⟨4, nopFrame⟩, ⟨5, speedRead⟩], requests := [⟨3, .call .nop⟩, ⟨4, .call .nop⟩] }

/-- AnyPossibleMoveMayBeNext: three moves are possible at once. -/
theorem witness_AnyPossibleMoveMayBeNext :
    configured crowd = true ∧ moves crowd = [.issue 0, .grant 0, .grant 1] := ⟨by decide, by rfl⟩

/-- PossibleMovesAreExactlyThese: a request that can be taken, one whose caller waits, one whose caller holds the lock, and one
behind another of its caller. -/
theorem witness_PossibleMovesAreExactlyThese :
    Move.issue 0 ∈ moves crowd ∧ Move.issue 1 ∉ moves crowd
      ∧ moves { opening with requests := [⟨7, .call .nop⟩] } = [.primitive]
      ∧ moves { State.reset with requests := [⟨3, .call .nop⟩, ⟨3, .call .getStatus⟩] } = [.issue 0] := by
  refine ⟨by decide, by decide, by rfl, by rfl⟩

/-- StepCarriesOutOnePossibleMove: no move, and three. -/
theorem witness_StepCarriesOutOnePossibleMove :
    (configured State.reset = true ∧ moves State.reset = []) ∧ configured crowd = true ∧ moves crowd ≠ [] :=
  ⟨⟨by decide, by rfl⟩, by decide, by decide⟩

/-- `ending`: a whole frame of getParam(0x04) on the wire, then nop's window with its opcode sent. -/
theorem witness_wire_ending : FramesEncoded ending ∧ WireOk ending := by
  refine ⟨⟨?_, fun _ h => (nomatch h)⟩, frameEvents speedRead [0x01, 0x23, 0x45], _, ?_, rfl, rfl⟩
  · rintro f h
    cases h
    exact ⟨.nop, rfl⟩
  · exact FramesTrace.next .nil (f := speedRead) ⟨.getParam 4, rfl⟩ (.whole _ rfl)

theorem witness_Inv_reset : Inv State.reset :=
  ⟨by decide, by decide, by decide, by decide, ⟨fun _ h => (nomatch h), fun _ h => (nomatch h)⟩, [], [], .nil, rfl, rfl⟩
theorem witness_Inv_ending : Inv ending := ⟨by decide, by decide, by decide, by decide, witness_wire_ending⟩
theorem witness_Inv_crowd : Inv crowd := by
  refine ⟨by decide, by decide, by decide, by decide, ⟨fun _ h => (nomatch h), ?_⟩, [], [], .nil, rfl, rfl⟩
  rintro w h
  simp only [crowd, List.mem_cons, List.not_mem_nil, or_false] at h
  obtain rfl | rfl := h
  · exact ⟨.nop, rfl⟩
  · exact ⟨.getParam 4, rfl⟩

/-- StepKeepsInvariant: from `ending`, a frame closes; from `crowd`, a choice is made. -/
theorem witness_StepKeepsInvariant :
    (∃ t, Inv ending ∧ step ending = .next t) ∧ ∃ t, Inv crowd ∧ step { crowd with schedule := [2] } = .next t :=
  ⟨⟨_, witness_Inv_ending, rfl⟩, ⟨_, witness_Inv_crowd, rfl⟩⟩

/-- TransactionsNeverGiveUnsupportedWidth: the result in question stands in the history already. -/
theorem witness_TransactionsNeverGiveUnsupportedWidth :
    ∃ s t : State, Inv s ∧ step s = .next t ∧ (1, TransactionResult.err (.unsupportedResponseWidth 4)) ∈ t.results :=
  ⟨{ ending with results := [(1, .err (.unsupportedResponseWidth 4))] }, _,
    ⟨by decide, by decide, by decide, by decide, witness_wire_ending⟩, rfl, by decide⟩

/-- StepKeepsFramesEncoded: frames of getParam and nop, in flight and waiting. -/
theorem witness_StepKeepsFramesEncoded :
    ∃ t, FramesEncoded { opening with waiting := [⟨4, nopFrame⟩] } ∧ step { opening with waiting := [⟨4, nopFrame⟩] } = .next t := by
  refine ⟨_, ⟨?_, ?_⟩, rfl⟩
  · rintro f h
    cases h
    exact ⟨.getParam 4, rfl⟩
  · rintro w h
    simp only [List.mem_singleton] at h
    subst h
    exact ⟨.nop, rfl⟩

/-- StepRunsDecodedFrame, StepRunsCalledOperation, NotEmittedByteIsRefused: one request, chosen. -/
theorem witness_StepRunsDecodedFrame :
    ∃ s : State, configured s = true ∧ chosen s = some (.issue 0) ∧ s.requests[0]? = some ⟨3, .wire [0x09, 0x16]⟩
      ∧ decode s.profile s.opcodes [0x09, 0x16] = .ok (.setParam 9 22, [])
      ∧ (Instr.setParam 9 22).wellFormed s.profile = true :=
  ⟨{ State.reset with requests := [⟨3, .wire [0x09, 0x16]⟩] }, by decide, by decide, rfl, by decide, by decide⟩
/-- The same with bits above the width of K_THERM, which no operation in canonical form sends (log 11). -/
theorem witness_StepRunsDecodedFrame_surplus_bits :
    ∃ s : State, configured s = true ∧ chosen s = some (.issue 0) ∧ s.requests[0]? = some ⟨3, .wire [0x11, 0xFF]⟩
      ∧ decode s.profile s.opcodes [0x11, 0xFF] = .ok (.setParam 0x11 0xFF, [])
      ∧ frameOf (step s) = some ([0x11, 0x0F], 0) :=
  ⟨{ State.reset with requests := [⟨3, .wire [0x11, 0xFF]⟩] }, by decide, by decide, rfl, by decide, by rfl⟩
theorem witness_StepRunsCalledOperation :
    configured calling = true ∧ chosen calling = some (.issue 0) ∧ calling.requests[0]? = some ⟨3, .call .nop⟩ :=
  ⟨by decide, by decide, rfl⟩
theorem witness_NotEmittedByteIsRefused :
    ∃ s : State, configured s = true ∧ chosen s = some (.issue 0) ∧ s.requests[0]? = some ⟨3, .wire [0x60]⟩
      ∧ classify s.profile s.opcodes 0x60 = .notEmitted :=
  ⟨{ State.reset with requests := [⟨3, .wire [0x60]⟩] }, by decide, by decide, rfl, by decide⟩

/-- FetchWordRunsInNextStep: at reset, and where there is a choice. -/
theorem witness_FetchWordRunsInNextStep :
    configured crowd = true ∧ decode crowd.profile crowd.opcodes (tableFrame 8 0xD0) = .ok (.getStatus, [0, 0, 0]) :=
  ⟨by decide, by decide⟩

theorem witness_UnconstructedBlockTakesNoStep :
    configWf { refA with N := 1 } refO = false ∧ configWf refA { refO with nop := 1#8 } = false := by
  constructor <;> decide

/-- StatusFlagFollowsEntryPolarity: an entry of each kind, after the others, and a name that a layout, or the empty one,
lacks. -/
theorem witness_StatusFlagFollowsEntryPolarity :
    layoutA = [.flag "HiZ" 0 .high] ++ .flag "BUSY" 1 .high :: layoutA.drop 2
      ∧ layoutB = [.flag "HiZ" 0 .high] ++ .flag "BUSY" 1 .low :: layoutB.drop 2
      ∧ layoutB = layoutB.take 5 ++ motStatus :: layoutB.drop 6
      ∧ (∀ d ∈ layoutB.take 5, entryName d ≠ entryName motStatus) ∧ (∀ d ∈ layoutA, entryName d ≠ "GATECFG1")
      ∧ ∀ d ∈ ([] : List LayoutEntry), entryName d ≠ "BUSY" :=
  ⟨rfl, rfl, rfl, by decide, by decide, by decide⟩

/-- One caller's request, with a transport that completes nop's frame. -/
def alone (form : Form) : State := { answered refA nopFrame [] with requests := [⟨3, form⟩] }

/-- What SoleCallerRunsToResult asks of a state whose one request stands for `i`. -/
def Alone (form : Form) (i : Instr) : Prop :=
  configured (alone form) = true ∧ Ready (alone form) ∧ (alone form).waiting = [] ∧ (alone form).requests = [⟨3, form⟩]
    ∧ readForm (alone form).profile (alone form).opcodes form = .ok i

/-- SoleCallerRunsToResult: nop as a call, a wire frame and a spelling, in a state whose answers bring its transaction to an
end; and a call that the encoder refuses. -/
theorem witness_SoleCallerRunsToResult_call :
    Alone (.call .nop) .nop ∧ encodeOp refA refO .nop = .ok nopFrame
      ∧ transaction nopFrame (alone (.call .nop)).answers = some ⟨frameEvents nopFrame [], .unit, [.notYet]⟩ :=
  ⟨⟨by decide, ⟨rfl, rfl, rfl, rfl, rfl⟩, rfl, rfl, rfl⟩, rfl, rfl⟩
theorem witness_SoleCallerRunsToResult_wire :
    Alone (.wire [0x00]) .nop
      ∧ transaction nopFrame (alone (.wire [0x00])).answers = some ⟨frameEvents nopFrame [], .unit, [.notYet]⟩ :=
  ⟨⟨by decide, ⟨rfl, rfl, rfl, rfl, rfl⟩, rfl, rfl, by decide⟩, rfl⟩
theorem witness_SoleCallerRunsToResult_spelled :
    Alone (.spelled "nop()") .nop
      ∧ transaction nopFrame (alone (.spelled "nop()")).answers = some ⟨frameEvents nopFrame [], .unit, [.notYet]⟩ :=
  ⟨⟨by decide, ⟨rfl, rfl, rfl, rfl, rfl⟩, rfl, rfl, by rfl⟩, rfl⟩
theorem witness_SoleCallerRunsToResult_refused :
    Alone (.call (.getParam 0)) (.getParam 0) ∧ encodeOp refA refO (.getParam 0) = .error (.invalidRegister 0) :=
  ⟨⟨by decide, ⟨rfl, rfl, rfl, rfl, rfl⟩, rfl, rfl, rfl⟩, rfl⟩

end Sys2Proof.Tests
end

namespace Sys2Proof.Proofs

open Sys2Proof.Machine

/-! ## The choice of a move -/

/-- A move is chosen exactly where one is possible. -/
theorem chosen_eq_none_iff {s : State} : chosen s = none ↔ moves s = [] := by
  unfold chosen
  split
  case h_1 hnil => simp [hnil]
  case h_2 m hone => simp [hone]
  case h_3 hnonempty _ =>
    have hpos : 0 < (moves s).length := List.length_pos_iff.mpr hnonempty
    simpa [Nat.mod_lt _ hpos] using hnonempty

/-- Using up a choice writes the schedule or its counter, whichever the choice came from (log 8). -/
theorem dropChoice_changes_only_schedule (s : State) :
    ∃ schedule n, dropChoice s = { s with schedule := schedule, scheduleDraws := n } := by
  unfold dropChoice
  split
  case h_1 rest _ => exact ⟨rest, s.scheduleDraws, rfl⟩
  case h_2 => exact ⟨s.schedule, s.scheduleDraws + 1, rfl⟩

/-- At most one choice is used up by a step: none where at most one move is possible. -/
theorem afterChoice_cases (s : State) : afterChoice s = s ∨ afterChoice s = dropChoice s := by
  unfold afterChoice
  split
  case h_1 => exact .inl rfl
  case h_2 => exact .inl rfl
  case h_3 => exact .inr rfl

theorem afterChoice_changes_only_schedule (s : State) :
    ∃ schedule n, afterChoice s = { s with schedule := schedule, scheduleDraws := n } := by
  obtain hsame | hdrop := afterChoice_cases s
  · exact ⟨s.schedule, s.scheduleDraws, hsame⟩
  · rw [hdrop]; exact dropChoice_changes_only_schedule s

/-! ## The step of a configured block -/

theorem step_of_chosen {s : State} {m : Move} (hconf : configured s = true) (hchosen : chosen s = some m) :
    step s = runMove m (afterChoice s) := by
  simp [step, hconf, hchosen]

theorem step_of_moves_nil {s : State} (hconf : configured s = true) (hnone : moves s = []) : step s = .next s := by
  simp [step, hconf, chosen_eq_none_iff.mpr hnone]

/-- Where some move is possible, the step carries out a possible one: the chosen one. -/
theorem step_runs_possible_move {s : State} (hconf : configured s = true) (hsome : moves s ≠ []) :
    ∃ m ∈ moves s, step s = runMove m (afterChoice s) := by
  obtain ⟨m, hchosen⟩ := Option.ne_none_iff_exists'.mp (mt chosen_eq_none_iff.mp hsome)
  exact ⟨m, chosen_mem hchosen, step_of_chosen hconf hchosen⟩

/-- Where the chosen move takes a request that stands for an operation, in any of its forms, the step is exec of it. -/
theorem step_of_chosen_issue {s : State} {k : Nat} {r : Request} {i : Instr} (hconf : configured s = true)
    (hchosen : chosen s = some (.issue k)) (hreq : s.requests[k]? = some r)
    (hread : readForm s.profile s.opcodes r.form = .ok i) : step s = exec i (takeRequest k r (afterChoice s)) := by
  rw [step_of_chosen hconf hchosen]
  simp [runMove, runRequest, hreq, hread]

/-! ## The statements of spec/00_scope.md -/

/-- Settles O47: the case without moves, the case with some, and what using up the choice writes. -/
theorem stepCarriesOutOnePossibleMove : Obligations.StepCarriesOutOnePossibleMove := by
  intro s hconf
  exact ⟨step_of_moves_nil hconf, step_runs_possible_move hconf, afterChoice_changes_only_schedule s⟩

/-- Settles O49: a call reads as its own operation, and the choice leaves the requests as they were. -/
theorem stepRunsCalledOperation : Obligations.StepRunsCalledOperation := by
  intro s k c i hconf hchosen hreq
  have hstep : step s = exec i (takeRequest k ⟨c, .call i⟩ (afterChoice s)) :=
    step_of_chosen_issue hconf hchosen hreq rfl
  simpa [takeRequest] using hstep

end Sys2Proof.Proofs

namespace Sys2Proof.Proofs

open Sys2Proof.Machine Sys2Proof.Safety

/-! ## Ending a transaction -/

section
variable (r : TransactionResult) (s : State)

@[simp] theorem finish_profile : (finish r s).profile = s.profile := by
  unfold finish; split <;> simp
@[simp] theorem finish_opcodes : (finish r s).opcodes = s.opcodes := by
  unfold finish; split <;> simp
@[simp] theorem finish_phase : (finish r s).phase = .idle := by
  unfold finish; split <;> simp
@[simp] theorem finish_window : (finish r s).window = .shut := by
  unfold finish; split <;> simp
@[simp] theorem finish_pos : (finish r s).pos = 0 := by
  unfold finish; split <;> simp
@[simp] theorem finish_rx : (finish r s).rx = [] := by
  unfold finish; split <;> simp
@[simp] theorem finish_owner : (finish r s).owner = none := by
  unfold finish; split <;> simp
@[simp] theorem finish_requests : (finish r s).requests = s.requests := by
  unfold finish; split <;> simp
@[simp] theorem finish_waiting : (finish r s).waiting = s.waiting := by
  unfold finish; split <;> simp
@[simp] theorem finish_issuer : (finish r s).issuer = s.issuer := by
  unfold finish; split <;> simp
@[simp] theorem finish_trace : (finish r s).trace = s.trace := by
  unfold finish; split <;> simp
@[simp] theorem finish_answers : (finish r s).answers = s.answers := by
  unfold finish; split <;> simp
@[simp] theorem finish_answerDraws : (finish r s).answerDraws = s.answerDraws := by
  unfold finish; split <;> simp
@[simp] theorem finish_schedule : (finish r s).schedule = s.schedule := by
  unfold finish; split <;> simp
@[simp] theorem finish_scheduleDraws : (finish r s).scheduleDraws = s.scheduleDraws := by
  unfold finish; split <;> simp

end

/-- A FrameEnd that returned ok in an open window gives the decoded response (R203). -/
theorem primitiveOk_frameEnd_of_opened {s : State} (h : s.window = .opened) (b : Byte) :
    primitiveOk .frameEnd b s = finish (decodeResponse s.rx) s := by
  simp [primitiveOk, closeFrame, h]

/-- The release FrameEnd that returned ok gives the failure before it (R185). -/
theorem primitiveOk_frameEnd_of_failing {s : State} {e : Payload} (h : s.window = .failing e) (b : Byte) :
    primitiveOk .frameEnd b s = finish (.err (.transportFailure e)) s := by
  simp [primitiveOk, closeFrame, h, endInFailure]

/-- A failed exchange leads to the release (R185). -/
theorem primitiveFailed_of_exchange {p : Prim} (hbegin : p ≠ .frameBegin) (hend : p ≠ .frameEnd) (e : Payload)
    (s : State) : primitiveFailed p e s = setWindow (.failing e) s := by
  cases p with
  | frameBegin => exact absurd rfl hbegin
  | txByte b => rfl
  | rxByte => rfl
  | frameEnd => exact absurd rfl hend

/-- A FrameEnd that failed is the failure of the transaction where no exchange failed before it (D18). -/
theorem primitiveFailed_frameEnd_of_opened {s : State} (h : s.window = .opened) (e : Payload) :
    primitiveFailed .frameEnd e s = finish (.err (.transportFailure e)) s := by
  simp [primitiveFailed, h, endInFailure]

/-- A failure of the release FrameEnd is dropped: the first failure stands (D18). -/
theorem primitiveFailed_frameEnd_of_failing {s : State} {first : Payload} (h : s.window = .failing first)
    (e : Payload) : primitiveFailed .frameEnd e s = finish (.err (.transportFailure first)) s := by
  simp [primitiveFailed, h, endInFailure]

/-! ## The next exchange of a frame -/

theorem nextExchange_ne_frameBegin (f : Frame) (pos : Nat) : nextExchange f pos ≠ .frameBegin := by
  obtain ⟨-, h⟩ | ⟨b, -, -, h⟩ | ⟨-, -, h⟩ | ⟨-, -, h⟩ := nextExchange_cases f pos <;> simp [h]

/-- The bytes sent are the frame's, in their order (R61). -/
theorem sentBytes_of_nextExchange {f : Frame} {pos : Nat} {b : Byte} (h : nextExchange f pos = .txByte b) :
    (sentBytes f)[pos]? = some b := by
  obtain ⟨rfl, hx⟩ | ⟨c, hpos, harg, hx⟩ | ⟨-, -, hx⟩ | ⟨-, -, hx⟩ := nextExchange_cases f pos <;> rw [hx] at h
  · simpa [sentBytes] using h
  · obtain ⟨n, rfl⟩ := Nat.exists_eq_add_of_lt hpos
    obtain rfl : c = b := by simpa using h
    simpa [sentBytes] using harg
  · cases h
  · cases h

theorem pos_of_nextExchange_txByte {f : Frame} {pos : Nat} {b : Byte} (h : nextExchange f pos = .txByte b) :
    pos < 1 + f.args.length := by
  have hlt := (List.getElem?_eq_some_iff.1 (sentBytes_of_nextExchange h)).1
  simpa [sentBytes, Nat.add_comm] using hlt

/-- Bytes are read after all are sent, and only as many as the frame asks for (R181). -/
theorem pos_of_nextExchange_rxByte {f : Frame} {pos : Nat} (h : nextExchange f pos = .rxByte) :
    f.args.length < pos ∧ pos < exchangeCount f := by
  obtain ⟨-, hx⟩ | ⟨c, -, -, hx⟩ | ⟨hlow, hhigh, -⟩ | ⟨-, -, hx⟩ := nextExchange_cases f pos
  · simp [h] at hx
  · simp [h] at hx
  · exact ⟨hlow, hhigh⟩
  · simp [h] at hx

/-- FrameEnd is next exactly after the last exchange. -/
theorem nextExchange_eq_frameEnd_iff {f : Frame} {pos : Nat} : nextExchange f pos = .frameEnd ↔ exchangeCount f ≤ pos := by
  obtain ⟨rfl, hx⟩ | ⟨b, hpos, harg, hx⟩ | ⟨-, hhigh, hx⟩ | ⟨-, hhigh, hx⟩ := nextExchange_cases f pos
  · simp [hx, exchangeCount]
  · have hlen : pos - 1 < f.args.length := (List.getElem?_eq_some_iff.1 harg).1
    simp only [hx, reduceCtorEq, exchangeCount, false_iff]
    omega
  · simp only [hx, reduceCtorEq, false_iff]
    omega
  · simp [hx, hhigh]

/-! ## What a primitive of the sequencer can do -/

/-- What the present primitive of frame `f` can do (R181), one case for each place of the sequence and each answer: `s` is the
state with the answer used up, and the last argument the state after it. `advance_primitiveEffect` ties it to the model. -/
inductive PrimitiveEffect (f : Frame) (s : State) : State → Prop
  | unanswered : PrimitiveEffect f s s
  | begun : s.window = .shut → PrimitiveEffect f s (setWindow .opened (record .begin s))
  | unopened (e : Payload) : s.window = .shut →
      PrimitiveEffect f s (finish (.err (.transportFailure e)) (record (.failed .frameBegin e) s))
  | sent (b : Byte) : s.window = .opened → nextExchange f s.pos = .txByte b →
      PrimitiveEffect f s (countExchange (record (.tx b) s))
  | received (b : Byte) : s.window = .opened → nextExchange f s.pos = .rxByte →
      PrimitiveEffect f s (receive b (record (.rx b) s))
  | exchangeFailed (e : Payload) : s.window = .opened → nextExchange f s.pos ≠ .frameEnd →
      PrimitiveEffect f s (setWindow (.failing e) (record (.failed (nextExchange f s.pos) e) s))
  | closed : s.window = .opened → nextExchange f s.pos = .frameEnd →
      PrimitiveEffect f s (finish (decodeResponse s.rx) (record .close s))
  | unclosed (e : Payload) : s.window = .opened → nextExchange f s.pos = .frameEnd →
      PrimitiveEffect f s (finish (.err (.transportFailure e)) (record (.failed .frameEnd e) s))
  | released (e : Payload) (last : Event) : s.window = .failing e →
      (last = .close ∨ ∃ e2, last = .failed .frameEnd e2) →
      PrimitiveEffect f s (finish (.err (.transportFailure e)) (record last s))

theorem nextPrim_of_shut {s : State} (f : Frame) (h : s.window = .shut) : nextPrim f s = .frameBegin := by
  simp [nextPrim, h]

theorem nextPrim_of_opened {s : State} (f : Frame) (h : s.window = .opened) : nextPrim f s = nextExchange f s.pos := by
  simp [nextPrim, h]

theorem nextPrim_of_failing {s : State} {e : Payload} (f : Frame) (h : s.window = .failing e) :
    nextPrim f s = .frameEnd := by
  simp [nextPrim, h]

/-- A primitive that returned ok has one of the effects listed. -/
theorem primitiveOk_primitiveEffect (f : Frame) (b : Byte) (s : State) :
    PrimitiveEffect f s (primitiveOk (nextPrim f s) b (record (okEvent (nextPrim f s) b) s)) := by
  cases hw : s.window with
  | shut => rw [nextPrim_of_shut f hw]; exact .begun hw
  | opened =>
    rw [nextPrim_of_opened f hw]
    cases hx : nextExchange f s.pos with
    | frameBegin => exact absurd hx (nextExchange_ne_frameBegin f s.pos)
    | txByte c => exact .sent c hw hx
    | rxByte => exact .received b hw hx
    | frameEnd =>
      rw [primitiveOk_frameEnd_of_opened (by simpa using hw)]
      exact .closed hw hx
  | failing e =>
    rw [nextPrim_of_failing f hw, primitiveOk_frameEnd_of_failing (by simpa using hw)]
    exact .released e .close hw (.inl rfl)

/-- A primitive that failed has one of the effects listed. -/
theorem primitiveFailed_primitiveEffect (f : Frame) (e : Payload) (s : State) :
    PrimitiveEffect f s (primitiveFailed (nextPrim f s) e (record (.failed (nextPrim f s) e) s)) := by
  cases hw : s.window with
  | shut => rw [nextPrim_of_shut f hw]; exact .unopened e hw
  | opened =>
    rw [nextPrim_of_opened f hw]
    by_cases hend : nextExchange f s.pos = .frameEnd
    · rw [hend, primitiveFailed_frameEnd_of_opened (by simpa using hw)]
      exact .unclosed e hw hend
    · rw [primitiveFailed_of_exchange (nextExchange_ne_frameBegin f s.pos) hend]
      exact .exchangeFailed e hw hend
  | failing first =>
    rw [nextPrim_of_failing f hw, primitiveFailed_frameEnd_of_failing (by simpa using hw)]
    exact .released first _ hw (.inr ⟨e, rfl⟩)

/-- One primitive of the sequencer has one of the effects listed, after its answer is used up. -/
theorem advance_primitiveEffect {s : State} {f : Frame} (hactive : s.phase = .active f) :
    PrimitiveEffect f (dropAnswer s) (advance s) := by
  have hprim : nextPrim f s = nextPrim f (dropAnswer s) := by simp [nextPrim]
  rw [advance_of_active hactive, hprim]
  obtain ⟨-, h⟩ | ⟨b, -, h⟩ | ⟨e, -, h⟩ :=
    applyAnswer_cases (nextPrim f (dropAnswer s)) (nextAnswer s) (dropAnswer s) <;> rw [h]
  · exact .unanswered
  · exact primitiveOk_primitiveEffect f b (dropAnswer s)
  · exact primitiveFailed_primitiveEffect f e (dropAnswer s)

theorem PrimitiveEffect.leaves_callers {f : Frame} {s t : State} (h : PrimitiveEffect f s t) :
    t.profile = s.profile ∧ t.opcodes = s.opcodes ∧ t.requests = s.requests ∧ t.waiting = s.waiting
      ∧ t.issuer = s.issuer ∧ t.schedule = s.schedule ∧ t.scheduleDraws = s.scheduleDraws := by
  cases h <;> simp

/-- Settles O40: without a frame in flight nothing changes; with one, each effect of its primitive leaves these fields. -/
theorem primitiveLeavesCallersAlone : Obligations.PrimitiveLeavesCallersAlone := by
  intro s
  cases hphase : s.phase with
  | idle => simp [advance_of_idle hphase]
  | active f => simpa using (advance_primitiveEffect hphase).leaves_callers

/-! ## The parts of the invariant as propositions -/

/-- The invariant of an Idle sequencer is that the block is ready (R32, R225). -/
theorem sequencerOk_iff_ready {s : State} (hidle : s.phase = .idle) : sequencerOk s = true ↔ Ready s := by
  simp [sequencerOk, Ready, hidle, and_comm, and_left_comm]

/-- The invariant of a frame in flight (R32, R33). -/
theorem sequencerOk_iff_of_active {s : State} {f : Frame} (hactive : s.phase = .active f) :
    sequencerOk s = true ↔
      s.owner ≠ none ∧ frameWf f = true ∧ s.pos ≤ exchangeCount f ∧ s.rx.length = s.pos - (1 + f.args.length)
        ∧ (s.window = .shut → s.pos = 0) := by
  simp [sequencerOk, hactive, and_assoc, Option.isSome_iff_ne_none, imp_iff_not_or]

/-- With the lock free no frame is in flight (R33). -/
theorem ready_of_free {s : State} (hseq : sequencerOk s = true) (hfree : s.owner = none) : Ready s := by
  cases hphase : s.phase with
  | idle => exact (sequencerOk_iff_ready hphase).1 hseq
  | active f => exact absurd hfree ((sequencerOk_iff_of_active hphase).1 hseq).1

theorem waitersOk_iff (s : State) :
    waitersOk s = true ↔
      (∀ w ∈ s.waiting, frameWf w.frame = true ∧ s.owner ≠ some w.caller) ∧ (s.waiting.map Waiter.caller).Nodup := by
  simp [waitersOk]

/-- The frame of an operation meets R60, whatever the operation. -/
theorem frameFits (i : Instr) : Laws.FrameFits.Statement i := by
  cases i with
  | nop => exact Laws.FrameFits.nop
  | setParam addr value => exact Laws.FrameFits.setParam addr value
  | getParam addr => exact Laws.FrameFits.getParam addr
  | run speed => exact Laws.FrameFits.run speed
  | move steps => exact Laws.FrameFits.move steps
  | softStop => exact Laws.FrameFits.softStop
  | hardStop => exact Laws.FrameFits.hardStop
  | softHiZ => exact Laws.FrameFits.softHiZ
  | hardHiZ => exact Laws.FrameFits.hardHiZ
  | resetDevice => exact Laws.FrameFits.resetDevice
  | getStatus => exact Laws.FrameFits.getStatus

theorem frameWf_of_emitted {s : State} {f : Frame} (hconf : configured s = true)
    (h : Emitted s.profile s.opcodes f) : frameWf f = true := by
  obtain ⟨i, hi⟩ := h
  simp only [configured, configWf, Bool.and_eq_true] at hconf
  exact frameFits i s.profile s.opcodes f hconf.1 hi

theorem linkAfter_append_singleton (trace : List Event) (e : Event) :
    linkAfter (trace ++ [e]) = (linkAfter trace).bind (fun l => linkStep l e) := by
  simp [linkAfter]

theorem linkOf_of_shut {s : State} (h : s.window = .shut) : linkOf s = .closed := by
  cases hphase : s.phase <;> simp [linkOf, hphase, h]

theorem linkOf_of_opened {s : State} {f : Frame} (hactive : s.phase = .active f) (h : s.window = .opened) :
    linkOf s = .opened s.pos (!s.rx.isEmpty) := by
  simp [linkOf, hactive, h]

theorem linkOf_of_failing {s : State} {f : Frame} {e : Payload} (hactive : s.phase = .active f)
    (h : s.window = .failing e) : linkOf s = .failed s.pos := by
  simp [linkOf, hactive, h]

theorem inProgress_of_shut {s : State} (h : s.window = .shut) (events : List Event) :
    InProgress s events ↔ events = [] := by
  cases hphase : s.phase <;> simp [InProgress, hphase, h]

theorem inProgress_of_opened {s : State} {f : Frame} (hactive : s.phase = .active f) (h : s.window = .opened)
    (events : List Event) : InProgress s events ↔ events = windowEvents f s.pos s.rx := by
  simp [InProgress, hactive, h]

theorem inProgress_of_failing {s : State} {f : Frame} {e : Payload} (hactive : s.phase = .active f)
    (h : s.window = .failing e) (events : List Event) :
    InProgress s events ↔
      ∃ p, (exchangePrims f)[s.pos]? = some p ∧ events = windowEvents f s.pos s.rx ++ [.failed p e] := by
  simp [InProgress, hactive, h]

/-! ## What the invariant reads -/

/-- `t` has the configuration, the frame in flight, the lock and the waiting callers of `s`. -/
structure SameHolder (s t : State) : Prop where
  profile : t.profile = s.profile
  opcodes : t.opcodes = s.opcodes
  phase : t.phase = s.phase
  owner : t.owner = s.owner
  waiting : t.waiting = s.waiting

/-- `t` agrees with `s` on every field the invariant speaks of. -/
structure SameBlock (s t : State) : Prop extends SameHolder s t where
  window : t.window = s.window
  pos : t.pos = s.pos
  rx : t.rx = s.rx
  trace : t.trace = s.trace

theorem configured_congr {s t : State} (hP : t.profile = s.profile) (hO : t.opcodes = s.opcodes) :
    configured t = configured s := by
  rw [configured, configured, hP, hO]

theorem SameHolder.waitersOk_eq {s t : State} (h : SameHolder s t) : waitersOk t = waitersOk s := by
  rw [waitersOk, waitersOk, h.waiting, h.owner]

theorem SameHolder.framesEncoded_iff {s t : State} (h : SameHolder s t) : FramesEncoded t ↔ FramesEncoded s := by
  rw [FramesEncoded, FramesEncoded, h.profile, h.opcodes, h.phase, h.waiting]

theorem SameBlock.sequencerOk_eq {s t : State} (h : SameBlock s t) : sequencerOk t = sequencerOk s := by
  rw [sequencerOk, sequencerOk, h.phase, h.owner, h.window, h.pos, h.rx]

theorem SameBlock.linkOf_eq {s t : State} (h : SameBlock s t) : linkOf t = linkOf s := by
  rw [linkOf, linkOf, h.phase, h.window, h.pos, h.rx]

theorem SameBlock.inProgress_iff {s t : State} (h : SameBlock s t) (events : List Event) :
    InProgress t events ↔ InProgress s events := by
  rw [InProgress, InProgress, h.phase, h.window, h.pos, h.rx]

theorem SameBlock.wireOk_iff {s t : State} (h : SameBlock s t) : WireOk t ↔ WireOk s := by
  simp only [WireOk, h.profile, h.opcodes, h.trace, h.inProgress_iff]

/-- The invariant does not speak of the requests, the issuer, the results, the answers or the schedule. -/
theorem SameBlock.inv {s t : State} (h : SameBlock s t) (hinv : Inv s) : Inv t := by
  rw [Safety.Inv, configured_congr h.profile h.opcodes, h.sequencerOk_eq, h.waitersOk_eq, h.trace, h.linkOf_eq,
    h.framesEncoded_iff, h.wireOk_iff]
  exact hinv

theorem sameBlock_afterChoice (s : State) : SameBlock s (afterChoice s) :=
  ⟨⟨afterChoice_profile s, afterChoice_opcodes s, afterChoice_phase s, afterChoice_owner s, afterChoice_waiting s⟩,
    afterChoice_window s, afterChoice_pos s, afterChoice_rx s, afterChoice_trace s⟩

theorem sameBlock_dropAnswer (s : State) : SameBlock s (dropAnswer s) :=
  ⟨⟨dropAnswer_profile s, dropAnswer_opcodes s, dropAnswer_phase s, dropAnswer_owner s, dropAnswer_waiting s⟩,
    dropAnswer_window s, dropAnswer_pos s, dropAnswer_rx s, dropAnswer_trace s⟩

theorem sameBlock_takeRequest (k : Nat) (r : Request) (s : State) : SameBlock s (takeRequest k r s) :=
  ⟨⟨rfl, rfl, rfl, rfl, rfl⟩, rfl, rfl, rfl, rfl⟩

theorem sameBlock_deliver (c : Caller) (r : TransactionResult) (s : State) : SameBlock s (deliver c r s) :=
  ⟨⟨rfl, rfl, rfl, rfl, rfl⟩, rfl, rfl, rfl, rfl⟩

/-! ## The lock and the waiting callers keep the invariant -/

/-- A caller that does not wait takes the free lock for an operation's frame (R181). -/
theorem inv_openTransaction {s : State} {c : Caller} {f : Frame} (hinv : Inv s) (hfree : s.owner = none)
    (hemitted : Emitted s.profile s.opcodes f) (hc : c ∉ s.waiting.map Waiter.caller) :
    Inv (openTransaction c f s) := by
  obtain ⟨hconf, hseq, hwait, hlink, ⟨-, hwaitEnc⟩, hwire⟩ := hinv
  obtain ⟨-, hshut, -, -, -⟩ := ready_of_free hseq hfree
  refine ⟨hconf, ?_, ?_, ?_, ⟨?_, hwaitEnc⟩, ?_⟩
  · simp [sequencerOk_iff_of_active (openTransaction_phase c f s), frameWf_of_emitted hconf hemitted]
  · obtain ⟨hall, hnodup⟩ := (waitersOk_iff s).1 hwait
    refine (waitersOk_iff _).2 ⟨fun w hw => ⟨(hall w hw).1, ?_⟩, hnodup⟩
    rintro heq
    obtain rfl : c = w.caller := by simpa using heq
    exact hc (List.mem_map_of_mem hw)
  · rwa [openTransaction_trace, linkOf_of_shut (openTransaction_window c f s), ← linkOf_of_shut hshut]
  · rintro g hg
    cases hg
    exact hemitted
  · obtain ⟨past, events, hpast, hevents, htrace⟩ := hwire
    exact ⟨past, events, hpast, (inProgress_of_shut rfl events).2 ((inProgress_of_shut hshut events).1 hevents), htrace⟩

/-- A caller that finds the lock held by another waits with an operation's frame (R186). -/
theorem inv_waitForLock {s : State} {f : Frame} (hinv : Inv s) (hemitted : Emitted s.profile s.opcodes f)
    (howner : s.owner ≠ some s.issuer) (hissuer : s.issuer ∉ s.waiting.map Waiter.caller) : Inv (waitForLock f s) := by
  obtain ⟨hconf, hseq, hwait, hlink, ⟨hflightEnc, hwaitEnc⟩, hwire⟩ := hinv
  refine ⟨hconf, hseq, ?_, hlink, ⟨hflightEnc, ?_⟩, hwire⟩
  · obtain ⟨hall, hnodup⟩ := (waitersOk_iff s).1 hwait
    refine (waitersOk_iff _).2 ⟨?_, ?_⟩
    · simp only [waitForLock_waiting, List.mem_append, List.mem_singleton, waitForLock_owner]
      rintro w (hw | rfl)
      · exact hall w hw
      · exact ⟨frameWf_of_emitted hconf hemitted, howner⟩
    · rw [waitForLock_waiting, List.map_append]
      exact hnodup.append (List.nodup_singleton _) (by simpa using hissuer)
  · simp only [waitForLock_waiting, List.mem_append, List.mem_singleton]
    rintro w (hw | rfl)
    · exact hwaitEnc w hw
    · exact hemitted

/-- A caller that waits no longer. -/
theorem inv_dropWaiter {s : State} (hinv : Inv s) (k : Nat) : Inv (dropWaiter k s) := by
  obtain ⟨hconf, hseq, hwait, hlink, ⟨hflightEnc, hwaitEnc⟩, hwire⟩ := hinv
  have hsub : (s.waiting.eraseIdx k).Sublist s.waiting := List.eraseIdx_sublist s.waiting k
  refine ⟨hconf, hseq, ?_, hlink, ⟨hflightEnc, fun w hw => hwaitEnc w (hsub.subset hw)⟩, hwire⟩
  obtain ⟨hall, hnodup⟩ := (waitersOk_iff s).1 hwait
  exact (waitersOk_iff _).2 ⟨fun w hw => hall w (hsub.subset hw), hnodup.sublist (hsub.map _)⟩

/-- No caller waits twice, so one that stops waiting at its place is not among those that still wait. -/
theorem caller_not_mem_dropWaiter {s : State} {k : Nat} {w : Waiter} (hnodup : (s.waiting.map Waiter.caller).Nodup)
    (hw : s.waiting[k]? = some w) : w.caller ∉ (dropWaiter k s).waiting.map Waiter.caller := by
  rw [dropWaiter_waiting, ← List.eraseIdx_map, List.mem_eraseIdx_iff_getElem?]
  rintro ⟨j, hjk, hj⟩
  have hk : (s.waiting.map Waiter.caller)[k]? = some w.caller := by simp [hw]
  have hlt : k < (s.waiting.map Waiter.caller).length := (List.getElem?_eq_some_iff.1 hk).1
  exact hjk.symm ((List.getElem?_inj hlt hnodup).1 (hk.trans hj.symm))

/-- Waiting caller `k` takes the free lock (R186). -/
theorem inv_grant {s : State} {k : Nat} {w : Waiter} (hinv : Inv s) (hfree : s.owner = none)
    (hw : s.waiting[k]? = some w) : Inv (openTransaction w.caller w.frame (dropWaiter k s)) := by
  have hdrop := inv_dropWaiter hinv k
  obtain ⟨-, -, hwait, -, ⟨-, hwaitEnc⟩, -⟩ := hinv
  exact inv_openTransaction hdrop hfree (hwaitEnc w (List.mem_of_getElem? hw))
    (caller_not_mem_dropWaiter ((waitersOk_iff s).1 hwait).2 hw)

/-- An operation of a caller that is not blocked is encoded and handed over (R181, R183). -/
theorem inv_submit {s : State} (hinv : Inv s) (i : Instr) (howner : s.owner ≠ some s.issuer)
    (hissuer : s.issuer ∉ s.waiting.map Waiter.caller) : Inv (submit (encodeOp s.profile s.opcodes i) s) := by
  obtain ⟨e, -, h⟩ | ⟨f, hf, hfree, h⟩ | ⟨f, c, hf, -, h⟩ :=
    submit_cases (encodeOp s.profile s.opcodes i) s <;> rw [h]
  · exact (sameBlock_deliver _ _ s).inv hinv
  · exact inv_openTransaction hinv hfree ⟨i, hf⟩ hissuer
  · exact inv_waitForLock hinv ⟨i, hf⟩ howner hissuer

/-! ## The primitives keep the invariant -/

/-- The frame in flight stays open: its event is recorded, and the link and the open window move on by that event. -/
theorem inv_of_frame_continued {s t : State} {e : Event} (hinv : Inv s) (hsame : SameHolder s t)
    (htrace : t.trace = s.trace ++ [e]) (hseq : sequencerOk t = true) (hlink : linkStep (linkOf s) e = some (linkOf t))
    (hprogress : ∀ events, InProgress s events → InProgress t (events ++ [e])) : Inv t := by
  obtain ⟨hconf, -, hwait, hlinkS, hencoded, past, events, hpast, hevents, htraceS⟩ := hinv
  refine ⟨?_, hseq, ?_, ?_, hsame.framesEncoded_iff.2 hencoded, past, events ++ [e], ?_, hprogress events hevents, ?_⟩
  · rwa [configured_congr hsame.profile hsame.opcodes]
  · rwa [hsame.waitersOk_eq]
  · rw [htrace, linkAfter_append_singleton, hlinkS]
    exact hlink
  · rwa [hsame.profile, hsame.opcodes]
  · rw [htrace, htraceS, List.append_assoc]

/-- The frame in flight ends: its last event closes the link, and with it the events of the frame are one ended
transaction. -/
theorem inv_of_frame_ended {s : State} {f : Frame} {last : Event} (hinv : Inv s) (hactive : s.phase = .active f)
    (hlink : linkStep (linkOf s) last = some .closed)
    (hended : ∀ events, InProgress s events → FrameTrace f (events ++ [last])) (r : TransactionResult) :
    Inv (finish r (record last s)) := by
  obtain ⟨hconf, -, hwait, hlinkS, ⟨hflightEnc, hwaitEnc⟩, past, events, hpast, hevents, htrace⟩ := hinv
  have hshut : (finish r (record last s)).window = .shut := finish_window _ _
  refine ⟨?_, ?_, ?_, ?_, ⟨?_, ?_⟩, past ++ (events ++ [last]), [], ?_, (inProgress_of_shut hshut []).2 rfl, ?_⟩
  · rwa [configured_congr (s := s) (by simp) (by simp)]
  · simp [sequencerOk_iff_ready, Ready]
  · obtain ⟨hall, hnodup⟩ := (waitersOk_iff s).1 hwait
    simpa [waitersOk_iff] using ⟨fun w hw => (hall w hw).1, hnodup⟩
  · simp [linkOf_of_shut hshut, linkAfter_append_singleton, hlinkS, hlink]
  · simp
  · simpa using hwaitEnc
  · simpa using FramesTrace.next hpast (hflightEnc f hactive) (hended events hevents)
  · simp [htrace]

/-- Where a byte is read, reading has begun, or the opcode alone has been sent: R60 keeps argument and response bytes
apart. -/
theorem reading_or_first {f : Frame} {pos : Nat} {rx : List Byte} (hwf : frameWf f = true)
    (hrx : rx.length = pos - (1 + f.args.length)) (hread : nextExchange f pos = .rxByte) :
    (!rx.isEmpty || pos == 1) = true := by
  obtain ⟨hlow, hhigh⟩ := pos_of_nextExchange_rxByte hread
  obtain ⟨-, -, hargs | hrsp⟩ := (frameWf_iff f).1 hwf
  · cases rx with
    | nil =>
      have hfirst : pos = 1 := by
        simp only [hargs, List.length_nil] at hrx hlow
        omega
      simp [hfirst]
    | cons b bs => rfl
  · simp only [exchangeCount] at hhigh
    omega

/-- While bytes are sent, none has been read. -/
theorem rx_of_nextExchange_txByte {f : Frame} {pos : Nat} {rx : List Byte} {b : Byte}
    (hrx : rx.length = pos - (1 + f.args.length)) (hsend : nextExchange f pos = .txByte b) : rx = [] := by
  have hlow := pos_of_nextExchange_txByte hsend
  exact List.length_eq_zero_iff.1 (by omega)

/-- A failed exchange is one that the link lets come next (R51, R185). -/
theorem linkStep_exchangeFailed {f : Frame} {pos : Nat} {rx : List Byte} (hwf : frameWf f = true)
    (hrx : rx.length = pos - (1 + f.args.length)) (hnext : nextExchange f pos ≠ .frameEnd) (e : Payload) :
    linkStep (.opened pos (!rx.isEmpty)) (.failed (nextExchange f pos) e) = some (.failed pos) := by
  cases hx : nextExchange f pos with
  | frameBegin => exact absurd hx (nextExchange_ne_frameBegin f pos)
  | txByte b => simp [linkStep, rx_of_nextExchange_txByte hrx hx]
  | rxByte => simp [linkStep, reading_or_first hwf hrx hx]
  | frameEnd => exact absurd hx hnext

/-- The sequencer's facts of a frame in flight under the invariant. -/
theorem sequencer_facts {s : State} {f : Frame} (hinv : Inv s) (hactive : s.phase = .active f) :
    s.owner ≠ none ∧ frameWf f = true ∧ s.pos ≤ exchangeCount f ∧ s.rx.length = s.pos - (1 + f.args.length)
      ∧ (s.window = .shut → s.pos = 0) := by
  obtain ⟨-, hseq, -⟩ := hinv
  exact (sequencerOk_iff_of_active hactive).1 hseq

section
variable {s : State} {f : Frame} (hinv : Inv s) (hactive : s.phase = .active f)
include hinv hactive

/-- FrameBegin opens the window of the first exchange. -/
theorem inv_begun (hshut : s.window = .shut) : Inv (setWindow .opened (record .begin s)) := by
  obtain ⟨howner, hwf, hpos, hrx, hzero⟩ := sequencer_facts hinv hactive
  have hpos0 : s.pos = 0 := hzero hshut
  have hrx0 : s.rx = [] := List.length_eq_zero_iff.1 (by omega)
  have hactive' : (setWindow .opened (record .begin s)).phase = .active f := hactive
  refine inv_of_frame_continued hinv ⟨rfl, rfl, rfl, rfl, rfl⟩ rfl ?_ ?_ fun events hevents => ?_
  · exact (sequencerOk_iff_of_active hactive').2 ⟨howner, hwf, hpos, hrx, nofun⟩
  · rw [linkOf_of_shut hshut, linkOf_of_opened hactive' rfl]
    simp [linkStep, hpos0, hrx0]
  · rw [inProgress_of_opened hactive' rfl, (inProgress_of_shut hshut events).1 hevents]
    simp [windowEvents, hpos0, hrx0]

/-- A byte sent is the next byte of the window's events. -/
theorem inv_sent {b : Byte} (hopened : s.window = .opened) (hnext : nextExchange f s.pos = .txByte b) :
    Inv (countExchange (record (.tx b) s)) := by
  obtain ⟨howner, hwf, hpos, hrx, -⟩ := sequencer_facts hinv hactive
  have hsent : (sentBytes f)[s.pos]? = some b := sentBytes_of_nextExchange hnext
  have hlow : s.pos < 1 + f.args.length := pos_of_nextExchange_txByte hnext
  have hrx0 : s.rx = [] := rx_of_nextExchange_txByte hrx hnext
  have hactive' : (countExchange (record (.tx b) s)).phase = .active f := hactive
  refine inv_of_frame_continued hinv ⟨rfl, rfl, rfl, rfl, rfl⟩ rfl ?_ ?_ fun events hevents => ?_
  · refine (sequencerOk_iff_of_active hactive').2 ⟨howner, hwf, ?_, ?_, by simp [hopened]⟩
    · simp only [countExchange_pos, record_pos, exchangeCount]
      omega
    · simp only [countExchange_rx, record_rx, countExchange_pos, record_pos]
      omega
  · rw [linkOf_of_opened hactive hopened, linkOf_of_opened hactive' hopened]
    simp [linkStep, hrx0]
  · rw [inProgress_of_opened hactive' hopened, (inProgress_of_opened hactive hopened events).1 hevents]
    simp [hrx0, windowEvents_tx hsent]

/-- A byte read comes after all bytes sent and the bytes read before it. -/
theorem inv_received {b : Byte} (hopened : s.window = .opened) (hnext : nextExchange f s.pos = .rxByte) :
    Inv (receive b (record (.rx b) s)) := by
  obtain ⟨howner, hwf, hpos, hrx, -⟩ := sequencer_facts hinv hactive
  obtain ⟨hlow, hhigh⟩ := pos_of_nextExchange_rxByte hnext
  have hactive' : (receive b (record (.rx b) s)).phase = .active f := hactive
  refine inv_of_frame_continued hinv ⟨rfl, rfl, rfl, rfl, rfl⟩ rfl ?_ ?_ fun events hevents => ?_
  · refine (sequencerOk_iff_of_active hactive').2 ⟨howner, hwf, hhigh, ?_, by simp [hopened]⟩
    simp only [receive_rx, record_rx, receive_pos, record_pos, List.length_append, List.length_singleton]
    omega
  · rw [linkOf_of_opened hactive hopened, linkOf_of_opened hactive' hopened]
    simp [linkStep, reading_or_first hwf hrx hnext]
  · rw [inProgress_of_opened hactive' hopened, (inProgress_of_opened hactive hopened events).1 hevents]
    exact (windowEvents_rx (by omega) s.rx b).symm

/-- A failed exchange completes nothing and leaves the release to come (R185). -/
theorem inv_exchangeFailed (e : Payload) (hopened : s.window = .opened) (hnext : nextExchange f s.pos ≠ .frameEnd) :
    Inv (setWindow (.failing e) (record (.failed (nextExchange f s.pos) e) s)) := by
  obtain ⟨howner, hwf, hpos, hrx, -⟩ := sequencer_facts hinv hactive
  have hlt : s.pos < exchangeCount f := not_le.1 (mt nextExchange_eq_frameEnd_iff.2 hnext)
  have hactive' : (setWindow (.failing e) (record (.failed (nextExchange f s.pos) e) s)).phase = .active f := hactive
  refine inv_of_frame_continued hinv ⟨rfl, rfl, rfl, rfl, rfl⟩ rfl ?_ ?_ fun events hevents => ?_
  · exact (sequencerOk_iff_of_active hactive').2 ⟨howner, hwf, hpos, hrx, nofun⟩
  · rw [linkOf_of_opened hactive hopened, linkOf_of_failing hactive' rfl]
    exact linkStep_exchangeFailed hwf hrx hnext e
  · rw [inProgress_of_failing hactive' rfl, (inProgress_of_opened hactive hopened events).1 hevents]
    exact ⟨_, exchangePrims_nextExchange f hlt, rfl⟩

/-- A FrameBegin that failed is a transaction of its own on the wire (D34). -/
theorem inv_unopened (e : Payload) (hshut : s.window = .shut) (r : TransactionResult) :
    Inv (finish r (record (.failed .frameBegin e) s)) := by
  refine inv_of_frame_ended hinv hactive ?_ (fun events hevents => ?_) r
  · rw [linkOf_of_shut hshut]; rfl
  · rw [(inProgress_of_shut hshut events).1 hevents]
    exact .unopened e

/-- All exchanges are done: FrameEnd, ok or failed, closes the link and ends the frame. -/
theorem inv_frameEnd {last : Event} (hopened : s.window = .opened) (hnext : nextExchange f s.pos = .frameEnd)
    (hlast : last = .close ∨ ∃ e, last = .failed .frameEnd e) (r : TransactionResult) :
    Inv (finish r (record last s)) := by
  obtain ⟨-, -, hpos, hrx, -⟩ := sequencer_facts hinv hactive
  have hall : s.pos = exchangeCount f := le_antisymm hpos (nextExchange_eq_frameEnd_iff.1 hnext)
  have hcount : s.rx.length = f.rspLen := by
    simp only [hall, exchangeCount] at hrx
    omega
  have hsome : (s.pos == 0) = false := by simp [hall, exchangeCount]
  refine inv_of_frame_ended hinv hactive ?_ (fun events hevents => ?_) r
  · rw [linkOf_of_opened hactive hopened]
    obtain rfl | ⟨e, rfl⟩ := hlast <;> simp [linkStep, hsome]
  · rw [(inProgress_of_opened hactive hopened events).1 hevents, hall]
    obtain rfl | ⟨e, rfl⟩ := hlast
    · rw [← frameEvents_eq_windowEvents]
      exact .whole s.rx hcount
    · exact .unclosed s.rx e hcount

/-- The release, ok or failed, closes the link after a failed exchange (R185). -/
theorem inv_released {e : Payload} {last : Event} (hfailing : s.window = .failing e)
    (hlast : last = .close ∨ ∃ e2, last = .failed .frameEnd e2) (r : TransactionResult) :
    Inv (finish r (record last s)) := by
  obtain ⟨-, -, -, hrx, -⟩ := sequencer_facts hinv hactive
  refine inv_of_frame_ended hinv hactive ?_ (fun events hevents => ?_) r
  · rw [linkOf_of_failing hactive hfailing]
    obtain rfl | ⟨e2, rfl⟩ := hlast <;> rfl
  · obtain ⟨p, hp, rfl⟩ := (inProgress_of_failing hactive hfailing events).1 hevents
    simpa using FrameTrace.cut s.pos s.rx p e last hp hrx hlast

end

/-- Every effect of a primitive keeps the invariant. -/
theorem PrimitiveEffect.inv {f : Frame} {s t : State} (heffect : PrimitiveEffect f s t) (hinv : Inv s)
    (hactive : s.phase = .active f) : Inv t := by
  cases heffect with
  | unanswered => exact hinv
  | begun hshut => exact inv_begun hinv hactive hshut
  | unopened e hshut => exact inv_unopened hinv hactive e hshut _
  | sent b hopened hnext => exact inv_sent hinv hactive hopened hnext
  | received b hopened hnext => exact inv_received hinv hactive hopened hnext
  | exchangeFailed e hopened hnext => exact inv_exchangeFailed hinv hactive e hopened hnext
  | closed hopened hnext => exact inv_frameEnd hinv hactive hopened hnext (.inl rfl) _
  | unclosed e hopened hnext => exact inv_frameEnd hinv hactive hopened hnext (.inr ⟨e, rfl⟩) _
  | released e last hfailing hlast => exact inv_released hinv hactive hfailing hlast _

/-- A step of the sequencer keeps the invariant. -/
theorem inv_advance {s : State} {f : Frame} (hinv : Inv s) (hactive : s.phase = .active f) : Inv (advance s) :=
  (advance_primitiveEffect hactive).inv ((sameBlock_dropAnswer s).inv hinv) (by simpa using hactive)

/-- Settles O57: by what a step can be (step_next_cases): nothing, an operation handed over, a lock granted, a primitive. -/
theorem stepKeepsInvariant : Obligations.StepKeepsInvariant := by
  intro s t hinv hstep
  have hinvAfter : Inv (afterChoice s) := (sameBlock_afterChoice s).inv hinv
  obtain ⟨-, rfl | ⟨k, r, i, hmove, hr, -, rfl⟩ | ⟨k, w, hfree, hw, rfl⟩ | ⟨f, hactive, rfl⟩⟩ := step_next_cases hstep
  · exact hinv
  · obtain ⟨howner, hwaiting⟩ := callerFree_of_issuable hr (issue_mem_moves.1 hmove).2
    have htaken : Inv (takeRequest k r (afterChoice s)) := (sameBlock_takeRequest k r _).inv hinvAfter
    simpa using inv_submit htaken i (by simpa using howner) (by simpa using hwaiting)
  · exact inv_grant hinvAfter (by simpa using hfree) (by simpa using hw)
  · exact inv_advance hinvAfter (by simpa using hactive)

/-! ## The encode step and the reference configuration: statements of spec/10_state.md -/

/-- Settles O34: by what handing over can do (submit_cases): an error returned, the free lock taken, or the caller waiting. -/
theorem execChangesOnlyWhatItHandsOver : Obligations.ExecChangesOnlyWhatItHandsOver := by
  intro i s t hexec
  rw [exec_eq_submit] at hexec
  obtain rfl : submit (encodeOp s.profile s.opcodes i) s = t := by injection hexec
  obtain ⟨e, -, hsubmit⟩ | ⟨f, -, hfree, hsubmit⟩ | ⟨f, c, -, hheld, hsubmit⟩ :=
    submit_cases (encodeOp s.profile s.opcodes i) s <;> rw [hsubmit]
  · simp
  · simp [hfree]
  · simp [hheld]

/-- The registers of the block both reference variants share have one width (R26). -/
theorem refA_refB_shared_widths :
    ∀ a ∈ List.range (configAddr refA), a ∉ [0x13, 0x14, 0x15, 0x16] → width refA a = width refB a := by
  decide

/-- Settles O7: the fixed rows are read off both tables, and the shared block is refA_refB_shared_widths. -/
theorem referenceVariantsShareTheirBlock : Obligations.ReferenceVariantsShareTheirBlock :=
  ⟨rfl, rfl, rfl, rfl, rfl, rfl, rfl, rfl, rfl, rfl, rfl, rfl, refA_refB_shared_widths⟩

/-- A field of one bit (R12) is 1 exactly where the bit is set. -/
theorem bitField_self_beq_one (word bit : Nat) : (bitField word bit bit == 1) = word.testBit bit := by
  rw [Bool.eq_iff_iff]
  simp [bitField, Nat.testBit_eq_decide_div_mod_eq]

/-- A field of one bit (R12) is 0 exactly where the bit is clear. -/
theorem bitField_self_beq_zero (word bit : Nat) : (bitField word bit bit == 0) = !word.testBit bit := by
  rw [Bool.eq_iff_iff]
  simp [bitField, Nat.testBit_eq_decide_div_mod_eq]

/-- BUSY of Variant A is bit 1, active high (R30). -/
theorem statusFlag_refA_busy (word : Nat) : statusFlag refA word "BUSY" = .ok (.asserted (word.testBit 1)) := by
  rw [← bitField_self_beq_one]
  rfl

/-- BUSY of the reference Variant B is bit 1, active low (log 3). -/
theorem statusFlag_refB_busy (word : Nat) : statusFlag refB word "BUSY" = .ok (.asserted (!word.testBit 1)) := by
  rw [← bitField_self_beq_zero]
  rfl

/-- Settles O55: the three example words follow from what BUSY reads in either layout (R168). -/
theorem busyReadsByVariant : Obligations.BusyReadsByVariant :=
  ⟨statusFlag_refA_busy, statusFlag_refA_busy 0x8201, statusFlag_refA_busy 0x8203, statusFlag_refB_busy 0x8201⟩

end Sys2Proof.Proofs

namespace Sys2Proof.Proofs

open Sys2Proof.Machine Sys2Proof.Safety

/-! ## Which moves are possible (spec/20_memory.md) -/

/-- A caller is free where it neither holds the lock nor waits for it (R229). -/
theorem callerFree_iff (s : State) (c : Caller) :
    callerFree s c = true ↔ s.owner ≠ some c ∧ c ∉ s.waiting.map Waiter.caller := by
  simp [callerFree]

/-- A request can be taken where its caller is free and it is the oldest of that caller's (R52). -/
theorem issuable_iff (s : State) (k : Nat) :
    issuable s k = true ↔
      ∃ r, s.requests[k]? = some r ∧ callerFree s r.caller = true
        ∧ ∀ j q, j < k → s.requests[j]? = some q → q.caller ≠ r.caller := by
  cases hreq : s.requests[k]? with
  | none => simp [issuable, hreq]
  | some r =>
    have holdest : (s.requests.take k).all (fun q => q.caller != r.caller) = true ↔
        ∀ j q, j < k → s.requests[j]? = some q → q.caller ≠ r.caller := by
      simp only [List.all_eq_true, bne_iff_ne, List.mem_iff_getElem?, List.getElem?_take, Option.ite_none_right_eq_some]
      constructor
      · exact fun h j q hj hq => h q ⟨j, hj, hq⟩
      · rintro h q ⟨j, hj, hq⟩
        exact h j q hj hq
    simp [issuable, hreq, holdest]

/-- Settles O46: each kind of move has its own membership lemma; a request that can be taken is there (issuable_iff). -/
theorem possibleMovesAreExactlyThese : Obligations.PossibleMovesAreExactlyThese := by
  intro s k
  refine ⟨?_, ?_, primitive_mem_moves⟩
  · have hthere : issuable s k = true → k < s.requests.length := fun h => by
      obtain ⟨r, hreq, -⟩ := (issuable_iff s k).mp h
      exact (List.getElem?_eq_some_iff.mp hreq).1
    rw [issue_mem_moves, and_iff_right_of_imp hthere, issuable_iff]
    simp only [callerFree_iff, and_assoc]
  · rw [grant_mem_moves, ← Option.isSome_iff_exists, isSome_getElem?]

/-! ## The sequencer's primitives one after another, and the exchange of R181 -/

/-- Some number of the sequencer's primitives leads from `s` to `t`. -/
def SequencerReaches (s t : State) : Prop := ∃ n, advances n s = t

theorem SequencerReaches.of_advance {s t : State} (h : advance s = t) : SequencerReaches s t := ⟨1, h⟩

theorem SequencerReaches.trans {s t u : State} (hst : SequencerReaches s t) (htu : SequencerReaches t u) :
    SequencerReaches s u := by
  obtain ⟨m, rfl⟩ := hst
  obtain ⟨n, rfl⟩ := htu
  exact ⟨m + n, advances_add m n s⟩

/-- A step of the sequencer applies the answer that is given next. -/
theorem advance_of_answers {s : State} {f : Frame} {a : Answer} {more : List Answer} (hactive : s.phase = .active f)
    (hanswers : s.answers = a :: more) : advance s = applyAnswer (nextPrim f s) a { s with answers := more } := by
  rw [advance_of_active hactive]
  simp [nextAnswer, dropAnswer, hanswers]

/-- Where the exchange of the sequencer's next primitive and of some after it comes to an end, the primitive fails, or it
returns ok and the others follow; the sequencer reaches its effect, with the answers left over (`more`). -/
theorem reaches_effect_of_exchange {s : State} {f : Frame} {ps : List Prim} {x : Exchanged}
    (hactive : s.phase = .active f) (hexchange : exchange s.answers (nextPrim f s :: ps) = some x) :
    (∃ e more, x = ⟨[.failed (nextPrim f s) e], [], some e, more⟩
        ∧ SequencerReaches s
            (primitiveFailed (nextPrim f s) e (record (.failed (nextPrim f s) e) { s with answers := more })))
      ∨ ∃ b more y, exchange more ps = some y
        ∧ x = { y with events := okEvent (nextPrim f s) b :: y.events,
                       rx := if nextPrim f s = .rxByte then b :: y.rx else y.rx }
        ∧ SequencerReaches s
            (primitiveOk (nextPrim f s) b (record (okEvent (nextPrim f s) b) { s with answers := more })) := by
  induction hanswers : s.answers generalizing s with
  | nil => simp [hanswers, exchange] at hexchange
  | cons a more ih =>
    have hadvance := advance_of_answers hactive hanswers
    rw [hanswers] at hexchange
    cases a with
    | notYet =>
      have hwait : SequencerReaches s { s with answers := more } := .of_advance hadvance
      obtain ⟨e, rest, hx, hreach⟩ | ⟨b, rest, y, hy, hx, hreach⟩ :=
        ih (s := { s with answers := more }) hactive hexchange rfl
      · exact .inl ⟨e, rest, hx, hwait.trans hreach⟩
      · exact .inr ⟨b, rest, y, hy, hx, hwait.trans hreach⟩
    | fail e =>
      simp only [exchange, Option.some.injEq] at hexchange
      exact .inl ⟨e, more, hexchange.symm, .of_advance hadvance⟩
    | ok b =>
      simp only [exchange] at hexchange
      split at hexchange
      case h_1 y hy => exact .inr ⟨b, more, y, hy, (Option.some.inj hexchange).symm, .of_advance hadvance⟩
      case h_2 => cases hexchange

/-! ## From a place in a frame to the end of its transaction -/

/-- A transaction ends with its result returned to the owner and its last event on the wire. -/
theorem finish_record_eq_settled {s : State} {c : Caller} (howner : s.owner = some c) (e : Event) (r : TransactionResult)
    (more : List Answer) : finish r (record e { s with answers := more }) = settled c ⟨[e], r, more⟩ s := by
  rw [finish_of_owner (s := record e { s with answers := more }) howner]
  rfl

/-- After a failed exchange, the release ends the transaction with that failure, whatever FrameEnd answers (R185, D18). -/
theorem reaches_settled_of_failing {s : State} {f : Frame} {c : Caller} {first : Payload} {z : Exchanged}
    (hactive : s.phase = .active f) (howner : s.owner = some c) (hfailing : s.window = .failing first)
    (hend : exchange s.answers [.frameEnd] = some z) :
    SequencerReaches s (settled c ⟨z.events, .err (.transportFailure first), z.rest⟩ s) := by
  have hnext : nextPrim f s = .frameEnd := nextPrim_of_failing f hfailing
  rw [← hnext] at hend
  obtain ⟨e, more, rfl, hreach⟩ | ⟨b, more, y, hy, rfl, hreach⟩ := reaches_effect_of_exchange hactive hend
  · rw [hnext, primitiveFailed_frameEnd_of_failing (by exact hfailing), finish_record_eq_settled howner] at hreach
    simpa [hnext] using hreach
  · obtain rfl : ⟨[], [], none, more⟩ = y := by simpa [exchange] using hy
    rw [hnext, primitiveOk_frameEnd_of_failing (by exact hfailing), finish_record_eq_settled howner] at hreach
    simpa [hnext] using hreach

/-- After the last exchange, FrameEnd ends the transaction: with its own failure, or with the decoded response (R203). -/
theorem reaches_settled_of_frameEnd {s : State} {f : Frame} {c : Caller} {z : Exchanged} (hactive : s.phase = .active f)
    (howner : s.owner = some c) (hopened : s.window = .opened) (hlast : nextExchange f s.pos = .frameEnd)
    (hend : exchange s.answers [.frameEnd] = some z) :
    SequencerReaches s (settled c ⟨z.events, resultOf ⟨[], s.rx, none, s.answers⟩ z, z.rest⟩ s) := by
  have hnext : nextPrim f s = .frameEnd := (nextPrim_of_opened f hopened).trans hlast
  rw [← hnext] at hend
  obtain ⟨e, more, rfl, hreach⟩ | ⟨b, more, y, hy, rfl, hreach⟩ := reaches_effect_of_exchange hactive hend
  · rw [hnext, primitiveFailed_frameEnd_of_opened (by exact hopened), finish_record_eq_settled howner] at hreach
    simpa [hnext, resultOf] using hreach
  · obtain rfl : ⟨[], [], none, more⟩ = y := by simpa [exchange] using hy
    rw [hnext, primitiveOk_frameEnd_of_opened (by exact hopened), finish_record_eq_settled howner] at hreach
    simpa [hnext, resultOf] using hreach

/-- The exchanges of R181 from a position on, as long as some are left. -/
theorem exchangePrims_drop {f : Frame} {pos : Nat} (h : pos < exchangeCount f) :
    (exchangePrims f).drop pos = nextExchange f pos :: (exchangePrims f).drop (pos + 1) := by
  rw [List.drop_eq_getElem?_toList_append, exchangePrims_nextExchange f h]
  rfl

/-- An exchange that returned ok is counted, and what it read is kept (R32). -/
theorem primitiveOk_of_exchange {p : Prim} (hbegin : p ≠ .frameBegin) (hend : p ≠ .frameEnd) (b : Byte) (s : State) :
    primitiveOk p b s = { s with pos := s.pos + 1, rx := if p = .rxByte then s.rx ++ [b] else s.rx } := by
  cases p with
  | frameBegin => exact absurd rfl hbegin
  | txByte c => rfl
  | rxByte => rfl
  | frameEnd => exact absurd rfl hend

/-- In the open window, the exchanges left and FrameEnd bring the transaction to its end; the bytes read add to those that
stand in `rx` already. -/
theorem reaches_settled_of_opened {s : State} {f : Frame} {c : Caller} {x z : Exchanged} (hactive : s.phase = .active f)
    (howner : s.owner = some c) (hopened : s.window = .opened)
    (hexchange : exchange s.answers ((exchangePrims f).drop s.pos) = some x)
    (hend : exchange x.rest [.frameEnd] = some z) :
    SequencerReaches s (settled c ⟨x.events ++ z.events, resultOf { x with rx := s.rx ++ x.rx } z, z.rest⟩ s) := by
  induction hprims : (exchangePrims f).drop s.pos generalizing s x with
  | nil =>
    have hlast : nextExchange f s.pos = .frameEnd := by
      rw [nextExchange_eq_frameEnd_iff, ← exchangePrims_length]
      exact List.drop_eq_nil_iff.mp hprims
    obtain rfl : ⟨[], [], none, s.answers⟩ = x := by simpa [hprims, exchange] using hexchange
    simpa using reaches_settled_of_frameEnd hactive howner hopened hlast hend
  | cons p ps ih =>
    have hpos : s.pos < exchangeCount f := by
      have hlength := congrArg List.length hprims
      simp only [List.length_drop, exchangePrims_length, List.length_cons] at hlength
      omega
    rw [exchangePrims_drop hpos] at hprims hexchange
    obtain ⟨rfl, hps⟩ := List.cons.inj hprims
    have hnext : nextPrim f s = nextExchange f s.pos := nextPrim_of_opened f hopened
    have hbegin : nextPrim f s ≠ .frameBegin := hnext ▸ nextExchange_ne_frameBegin f s.pos
    have hnotEnd : nextPrim f s ≠ .frameEnd := fun h => by
      have := nextExchange_eq_frameEnd_iff.mp (hnext.symm.trans h)
      omega
    rw [← hnext] at hexchange
    obtain ⟨e, more, rfl, hreach⟩ | ⟨b, more, y, hy, rfl, hreach⟩ := reaches_effect_of_exchange hactive hexchange
    · rw [primitiveFailed_of_exchange hbegin hnotEnd] at hreach
      have hrelease := reaches_settled_of_failing
        (s := setWindow (.failing e) (record (.failed (nextPrim f s) e) { s with answers := more }))
        hactive howner rfl hend
      simpa [settled, resultOf] using hreach.trans hrelease
    · rw [primitiveOk_of_exchange hbegin hnotEnd] at hreach
      have hrest := hreach.trans (ih hactive howner hopened hy hend hps)
      have hread : (if nextPrim f s = .rxByte then s.rx ++ [b] else s.rx) ++ y.rx
          = s.rx ++ if nextPrim f s = .rxByte then b :: y.rx else y.rx := by
        split <;> simp
      simpa [settled, resultOf, hread] using hrest

/-- A transaction that comes to an end got an answer to its FrameBegin. -/
theorem exists_begun_of_transaction {f : Frame} {answers : List Answer} {x : Transacted}
    (h : transaction f answers = some x) : ∃ begun, exchange answers [.frameBegin] = some begun := by
  rw [← Option.ne_none_iff_exists']
  intro hnone
  simp [transaction, hnone] at h

/-- After FrameBegin has succeeded, a transaction that comes to an end is its exchanges and FrameEnd (R181). -/
theorem transaction_of_opened {f : Frame} {answers : List Answer} {begun : Exchanged} {x : Transacted}
    (h : transaction f answers = some x) (hbegun : exchange answers [.frameBegin] = some begun)
    (hopened : begun.failure = none) :
    ∃ y z, exchange begun.rest (exchangePrims f) = some y ∧ exchange y.rest [.frameEnd] = some z
      ∧ x = ⟨begun.events ++ y.events ++ z.events, resultOf y z, z.rest⟩ := by
  simp only [transaction, hbegun, hopened] at h
  split at h
  case h_1 => cases h
  case h_2 y hy =>
    split at h
    case h_1 => cases h
    case h_2 z hz => exact ⟨y, z, hy, hz, (Option.some.inj h).symm⟩

/-- FrameBegin, the first primitive of a frame, fails and ends the transaction (D34), or opens the window. -/
theorem reaches_of_frameBegin {s : State} {f : Frame} {c : Caller} {begun : Exchanged} (hactive : s.phase = .active f)
    (howner : s.owner = some c) (hshut : s.window = .shut) (hbegun : exchange s.answers [.frameBegin] = some begun) :
    (∃ e, begun.failure = some e
        ∧ SequencerReaches s (settled c ⟨begun.events, .err (.transportFailure e), begun.rest⟩ s))
      ∨ (begun.failure = none
        ∧ SequencerReaches s { s with window := .opened, trace := s.trace ++ begun.events, answers := begun.rest }) := by
  have hnext : nextPrim f s = .frameBegin := nextPrim_of_shut f hshut
  rw [← hnext] at hbegun
  obtain ⟨e, more, rfl, hreach⟩ | ⟨b, more, y, hy, rfl, hreach⟩ := reaches_effect_of_exchange hactive hbegun
  · have hended : primitiveFailed .frameBegin e (record (.failed .frameBegin e) { s with answers := more })
        = settled c ⟨[.failed .frameBegin e], .err (.transportFailure e), more⟩ s :=
      finish_record_eq_settled howner _ _ _
    rw [hnext, hended] at hreach
    exact .inl ⟨e, rfl, by simpa [hnext] using hreach⟩
  · obtain rfl : ⟨[], [], none, more⟩ = y := by simpa [exchange] using hy
    exact .inr ⟨rfl, by simpa [hnext, primitiveOk, setWindow, record] using hreach⟩

/-- The sequencer brings a frame that has taken the lock to the end of its transaction (R181, R185). -/
theorem reaches_settled_of_transaction (c : Caller) {f : Frame} {s : State} {x : Transacted}
    (h : transaction f s.answers = some x) : SequencerReaches (openTransaction c f s) (settled c x s) := by
  obtain ⟨begun, hbegun⟩ := exists_begun_of_transaction h
  obtain ⟨e, hfailed, hreach⟩ | ⟨hopened, hreach⟩ :=
    reaches_of_frameBegin (s := openTransaction c f s) (f := f) rfl rfl rfl hbegun
  · obtain rfl : ⟨begun.events, .err (.transportFailure e), begun.rest⟩ = x := by
      simpa [transaction, hbegun, hfailed] using h
    exact hreach
  · obtain ⟨y, z, hy, hz, rfl⟩ := transaction_of_opened h hbegun hopened
    have hrest := reaches_settled_of_opened (c := c) (s := { openTransaction c f s with
      window := .opened, trace := s.trace ++ begun.events, answers := begun.rest }) rfl rfl rfl hy hz
    simpa [settled, openTransaction] using hreach.trans hrest

/-! ## The only active caller -/

/-- A block with no request and no waiting caller: whatever its step does, the sequencer alone does it. -/
def OnlySequencerMoves (s : State) : Prop := configured s = true ∧ s.requests = [] ∧ s.waiting = []

theorem OnlySequencerMoves.after_advance {s : State} (h : OnlySequencerMoves s) : OnlySequencerMoves (advance s) := by
  obtain ⟨hconf, hrequests, hwaiting⟩ := h
  obtain ⟨hprofile, hopcodes, hrequests', hwaiting', -⟩ := primitiveLeavesCallersAlone s
  exact ⟨by rw [configured_congr hprofile hopcodes, hconf], hrequests'.trans hrequests, hwaiting'.trans hwaiting⟩

/-- Its step is a primitive of the sequencer, which changes nothing where no frame is in flight. -/
theorem OnlySequencerMoves.step_eq {s : State} (h : OnlySequencerMoves s) : step s = .next (advance s) := by
  obtain ⟨hconf, hrequests, hwaiting⟩ := h
  cases hphase : s.phase with
  | idle =>
    have hnone : moves s = [] := by simp [moves, hrequests, hwaiting, hphase]
    rw [step_of_moves_nil hconf hnone, advance_of_idle hphase]
  | active f =>
    have hone : moves s = [.primitive] := by simp [moves, hrequests, hwaiting, hphase]
    simp [step, hconf, chosen, afterChoice, hone, runMove]

theorem OnlySequencerMoves.run_eq {s : State} (h : OnlySequencerMoves s) (n : Nat) :
    Host.Core.run core n s = .next (advances n s) := by
  induction n generalizing s with
  | zero => rfl
  | succ n ih => rw [core_run_succ n h.step_eq]; exact ih h.after_advance

/-- In a ready block with nobody waiting and one request, the step takes it and hands its operation over. -/
theorem step_of_sole_request {s : State} {c : Caller} {form : Form} {i : Instr} (hconf : configured s = true)
    (hready : Ready s) (hwaiting : s.waiting = []) (hrequests : s.requests = [⟨c, form⟩])
    (hread : readForm s.profile s.opcodes form = .ok i) :
    step s = .next (submit (encodeOp s.profile s.opcodes i) { s with requests := [], issuer := c }) := by
  obtain ⟨hidle, -, -, -, hfree⟩ := hready
  have hone : moves s = [.issue 0] := by
    simp [moves, issuable, callerFree, hrequests, hwaiting, hidle, hfree, List.range_succ]
  have hchosen : chosen s = some (.issue 0) := by simp [chosen, hone]
  have hafter : afterChoice s = s := by simp [afterChoice, hone]
  rw [step_of_chosen_issue hconf hchosen (r := ⟨c, form⟩) (by simp [hrequests]) hread, hafter, exec_eq_submit]
  simp [takeRequest, hrequests]

/-- Settles O59: the step that takes the request, and then, where its frame took the lock, the sequencer alone. -/
theorem soleCallerRunsToResult : Obligations.SoleCallerRunsToResult := by
  intro s c form i hconf hready hwaiting hrequests hread
  have hstep := step_of_sole_request hconf hready hwaiting hrequests hread
  obtain ⟨-, -, -, -, hfree⟩ := hready
  refine ⟨fun f x hframe htransaction => ?_, fun e herror => ?_⟩
  · have hlocked : step s = .next (openTransaction c f { s with requests := [], issuer := c }) := by
      rw [hstep, hframe]
      exact congrArg Host.Outcome.next (transact_of_free (by exact hfree) f)
    have halone : OnlySequencerMoves (openTransaction c f { s with requests := [], issuer := c }) :=
      ⟨hconf, rfl, hwaiting⟩
    obtain ⟨n, hn⟩ := reaches_settled_of_transaction c (s := { s with requests := [], issuer := c }) htransaction
    exact ⟨n + 1, by rw [core_run_succ n hlocked, halone.run_eq, hn]⟩
  · rw [hstep, herror]
    rfl

end Sys2Proof.Proofs

namespace Sys2Proof.Proofs

open Sys2Proof.Machine Sys2Proof.Safety

/-! ## The byte codec reads back what it writes (spec/41_byte_codec.md) -/

theorem decodeBE_cons (b : Byte) (bs : List Byte) :
    decodeBE (b :: bs) = b.toNat * 256 ^ bs.length + decodeBE bs := by
  have hfold : ∀ acc : Nat, bs.foldl (fun acc b => acc * 256 + b.toNat) acc = acc * 256 ^ bs.length + decodeBE bs := by
    unfold decodeBE
    induction bs with
    | nil => simp
    | cons c bs ih =>
      intro acc
      rw [List.foldl_cons, List.foldl_cons, ih (acc * 256 + c.toNat), ih (0 * 256 + c.toNat), List.length_cons]
      ring
  simpa [decodeBE] using hfold b.toNat

theorem decodeBE_lt (bs : List Byte) : decodeBE bs < 256 ^ bs.length := by
  induction bs with
  | nil => simp
  | cons b bs ih =>
    rw [decodeBE_cons, List.length_cons, Nat.pow_succ]
    have hb : b.toNat < 256 := b.isLt
    nlinarith

/-- Byte lists of one length are told apart by their value (R103). -/
theorem eq_of_decodeBE_eq {bs cs : List Byte} (hlength : bs.length = cs.length) (h : decodeBE bs = decodeBE cs) :
    bs = cs := by
  induction bs generalizing cs with
  | nil => exact (List.length_eq_zero_iff.1 hlength.symm).symm
  | cons b bs ih =>
    obtain _ | ⟨c, cs⟩ := cs
    · cases hlength
    · have hlength' : bs.length = cs.length := Nat.succ.inj hlength
      rw [decodeBE_cons, decodeBE_cons, hlength'] at h
      have hbs : decodeBE bs < 256 ^ cs.length := hlength' ▸ decodeBE_lt bs
      have hlow : decodeBE bs = decodeBE cs := by
        rw [← Nat.mul_add_mod_of_lt (a := b.toNat) hbs, h, Nat.mul_add_mod_of_lt (decodeBE_lt cs)]
      have hhigh : b.toNat = c.toNat := by
        rw [hlow] at h
        exact Nat.eq_of_mul_eq_mul_right (Nat.pow_pos (by decide)) (Nat.add_right_cancel h)
      rw [BitVec.eq_of_toNat_eq hhigh, ih hlength' hlow]

theorem decodeBE_encodeNat (t n : Nat) : decodeBE (encodeNat t n) = t % 256 ^ n := by
  induction n with
  | zero => simp [encodeNat, Nat.mod_one]
  | succ n ih =>
    have hplace : 2 ^ (8 * n) = 256 ^ n := Nat.pow_mul 2 8 n
    rw [encodeNat, decodeBE_cons, ih, encodeNat_length, BitVec.toNat_ofNat, Nat.shiftRight_eq_div_pow, hplace,
      Nat.mod_pow_succ (b := 256)]
    ring

/-- R103, law 1. -/
theorem decodeBE_encode (v : Int) (n : Nat) : (decodeBE (Machine.encode v n) : Int) = v % 2 ^ (8 * n) := by
  have hpos : (0 : Int) < 2 ^ (8 * n) := by positivity
  have hplace : (2 : Int) ^ (8 * n) = ((256 ^ n : Nat) : Int) := by push_cast; exact pow_mul 2 8 n
  rw [Machine.encode, decodeBE_encodeNat, Int.natCast_mod, Int.toNat_of_nonneg (Int.emod_nonneg v hpos.ne'), ← hplace,
    Int.emod_emod_of_dvd v dvd_rfl]

/-- R103, law 2. -/
theorem encode_decodeBE (bs : List Byte) : Machine.encode (decodeBE bs) bs.length = bs := by
  refine eq_of_decodeBE_eq (encode_length _ _) ?_
  have hlt : (decodeBE bs : Int) < 2 ^ (8 * bs.length) := by
    rw [pow_mul]
    exact_mod_cast decodeBE_lt bs
  exact_mod_cast (decodeBE_encode (decodeBE bs) bs.length).trans (Int.emod_eq_of_lt (Int.natCast_nonneg _) hlt)

/-! ## The register map under a well-formed configuration (spec/40_register_map.md) -/

theorem configWf_iff (P : Profile) (O : OpcodeSet) :
    configWf P O = true ↔ profileWf P = true ∧ opcodesWf P O = true := by
  simp [configWf]

/-- WF1. -/
theorem bound_range {P : Profile} (hP : profileWf P = true) : 2 ≤ P.N ∧ P.N ≤ 32 := by
  simp only [profileWf, Bool.and_eq_true, decide_eq_true_eq] at hP
  obtain ⟨⟨⟨hN, -⟩, -⟩, -⟩ := hP
  exact hN

/-- WF2: a valid address has a width. -/
theorem exists_width_of_valid {P : Profile} (hP : profileWf P = true) {a : Nat} (ha : valid P a = true) :
    ∃ w, width P a = .ok w := by
  simp only [profileWf, Bool.and_eq_true, decide_eq_true_eq] at hP
  obtain ⟨⟨⟨-, hrows⟩, -⟩, -⟩ := hP
  obtain ⟨hpos, hlt⟩ := (valid_iff P a).1 ha
  have hindex : a - 1 < P.rows.length := by omega
  exact ⟨P.rows[a - 1].width, by simp [width, ha, hindex]⟩

theorem regBytes_of_width {P : Profile} {a w : Nat} (h : width P a = .ok w) : regBytes P a = .ok (bytesNeeded w) := by
  simp [regBytes, h]

theorem width_of_regBytes {P : Profile} {a n : Nat} (h : regBytes P a = .ok n) :
    ∃ w, width P a = .ok w ∧ n = bytesNeeded w := by
  unfold regBytes at h
  split at h
  · exact ⟨_, ‹_›, (Except.ok.inj h).symm⟩
  · cases h

theorem regBytes_of_not_valid {P : Profile} {a : Nat} (h : ¬ valid P a = true) :
    regBytes P a = .error (.invalidRegister a) := by
  simp [regBytes, width, h]

/-! ## The opcode bytes (spec/30_encoding.md R62, R65) -/

/-- R62: an address of the profile stands in bits [4:0] of its set opcode, with bits [7:5] clear. -/
theorem setOpcode_toNat {a : Nat} (ha : a < 32) : (setOpcode a).toNat = a := by
  simp [setOpcode]
  omega

/-- R62: the get opcode is the address with bit 5 set. -/
theorem getOpcode_toNat {O : OpcodeSet} (hflag : O.getFlag = 0x20#8) {a : Nat} (ha : a < 32) :
    (getOpcode O a).toNat = 0x20 + a := by
  have hor : 0x20 + a = 0x20 ||| a := Nat.two_pow_add_eq_or_of_lt (i := 5) ha 1
  rw [hor, ← getOpcode_eq_iff _ (by omega), getOpcode, hflag]

/-- What O1 to O4 of R65 give for reading bytes back, under a well-formed configuration. -/
structure OpcodesOk (P : Profile) (O : OpcodeSet) : Prop where
  nop : O.nop = 0x00#8
  getFlag : O.getFlag = 0x20#8
  dirMask : O.dirMask ≠ 0#8
  runBase : O.runBase &&& O.dirMask = 0#8
  moveBase : O.moveBase &&& O.dirMask = 0#8
  distinct : (O.nop :: nonNopOpcodes O).Nodup
  not_set : ∀ b ∈ nonNopOpcodes O, ¬ valid P b.toNat = true
  not_get : ∀ b ∈ nonNopOpcodes O, b.toNat / 32 = 1 → ¬ valid P (b.toNat % 32) = true

theorem opcodesOk {P : Profile} {O : OpcodeSet} (h : configWf P O = true) : OpcodesOk P O := by
  obtain ⟨hP, hO⟩ := (configWf_iff P O).1 h
  obtain ⟨⟨hnop, hflag⟩, ⟨⟨i, hmask⟩, hrun, hmove⟩, hdistinct, hregister⟩ := (opcodesWf_iff (bound_range hP).2 O).1 hO
  refine ⟨hnop, hflag, ?_, hrun, hmove, hdistinct, fun b hb hvalid => ?_, fun b hb hflagged hvalid => ?_⟩
  · intro hzero
    have hbit : O.dirMask.getLsbD i = true := (hmask i).2 rfl
    simp [hzero] at hbit
  · obtain ⟨hpos, hlt⟩ := (valid_iff _ _).1 hvalid
    exact (hregister b hb _ hpos hlt).1 rfl
  · obtain ⟨hpos, hlt⟩ := (valid_iff _ _).1 hvalid
    have hor : 0x20 + b.toNat % 32 = 0x20 ||| b.toNat % 32 :=
      Nat.two_pow_add_eq_or_of_lt (i := 5) (Nat.mod_lt _ (by decide)) 1
    exact (hregister b hb _ hpos hlt).2 (by omega)

/-! ## What classify answers (spec/30_encoding.md R70) -/

/-- A byte that is neither NOP nor a register opcode is looked up among the fixed ones. -/
theorem classify_eq_classifyFixed {P : Profile} {O : OpcodeSet} {b : Byte} (hnop : b ≠ O.nop)
    (hset : ¬ valid P b.toNat = true) (hget : b.toNat / 32 = 1 → ¬ valid P (b.toNat % 32) = true) :
    classify P O b = classifyFixed O b := by
  rw [classify, if_neg hnop, regBytes_of_not_valid hset]
  by_cases hflagged : b.toNat / 32 = 1
  · simp [hflagged, regBytes_of_not_valid (hget hflagged)]
  · simp [hflagged]

theorem classify_nop (P : Profile) (O : OpcodeSet) : classify P O O.nop = .command .nop 0 0 := by
  simp [classify]

/-- R71: a byte that is none of the opcodes is not emitted. -/
theorem classifyFixed_of_not_mem {O : OpcodeSet} {b : Byte} (h : b ∉ nonNopOpcodes O) :
    classifyFixed O b = .notEmitted := by
  simp only [nonNopOpcodes, List.mem_cons, List.not_mem_nil, or_false, not_or] at h
  simp [classifyFixed, h]

section
variable {P : Profile} {O : OpcodeSet} (h : configWf P O = true)
include h

theorem lt_of_valid {a : Nat} (ha : valid P a = true) : 1 ≤ a ∧ a < 32 := by
  obtain ⟨hpos, hlt⟩ := (valid_iff P a).1 ha
  exact ⟨hpos, hlt.trans_le (bound_range ((configWf_iff P O).1 h).1).2⟩

theorem classify_setOpcode {a w : Nat} (hw : width P a = .ok w) :
    classify P O (setOpcode a) = .command (.setParam a) (bytesNeeded w) 0 := by
  obtain ⟨hpos, hlt⟩ := lt_of_valid h (width_ok hw).1
  have hbyte : (setOpcode a).toNat = a := setOpcode_toNat hlt
  have hnop : setOpcode a ≠ O.nop := by
    rw [(opcodesOk h).nop]
    exact fun heq => by simp [heq] at hbyte; omega
  simp [classify, hnop, hbyte, regBytes_of_width hw]

theorem classify_getOpcode {a w : Nat} (hw : width P a = .ok w) :
    classify P O (getOpcode O a) = .command (.getParam a) 0 (bytesNeeded w) := by
  obtain ⟨-, hlt⟩ := lt_of_valid h (width_ok hw).1
  have hbyte : (getOpcode O a).toNat = 0x20 + a := getOpcode_toNat (opcodesOk h).getFlag hlt
  have hnop : getOpcode O a ≠ O.nop := by
    rw [(opcodesOk h).nop]
    exact fun heq => by simp [heq] at hbyte; omega
  have hset : ¬ valid P (0x20 + a) = true := fun hvalid => by
    have := lt_of_valid h hvalid
    omega
  have hflagged : (0x20 + a) / 0x20 = 1 := by omega
  have haddr : (0x20 + a) % 0x20 = a := by omega
  simp [classify, hnop, hbyte, regBytes_of_not_valid hset, hflagged, haddr, regBytes_of_width hw]

/-- O3, O4: the ten non-NOP opcodes are neither NOP nor register opcodes. -/
theorem classify_of_mem_nonNopOpcodes {b : Byte} (hb : b ∈ nonNopOpcodes O) : classify P O b = classifyFixed O b := by
  have hok := opcodesOk h
  have hnop : b ≠ O.nop := fun heq => (List.nodup_cons.1 hok.distinct).1 (heq ▸ hb)
  exact classify_eq_classifyFixed hnop (hok.not_set b hb) (hok.not_get b hb)

end

/-- What each opcode byte the block emits stands for, with the number of bytes written and read after it (R61 to R64, R70).
`classify_eq_command_iff` says that classify names exactly these. -/
inductive OpcodeOf (P : Profile) (O : OpcodeSet) : Byte → Command → Nat → Nat → Prop
  | nop : OpcodeOf P O O.nop .nop 0 0
  | setParam {a w : Nat} : width P a = .ok w → OpcodeOf P O (setOpcode a) (.setParam a) (bytesNeeded w) 0
  | getParam {a w : Nat} : width P a = .ok w → OpcodeOf P O (getOpcode O a) (.getParam a) 0 (bytesNeeded w)
  | run (d : Bool) : OpcodeOf P O (motionOpcode O O.runBase d) .run motionBytes 0
  | move (d : Bool) : OpcodeOf P O (motionOpcode O O.moveBase d) .move motionBytes 0
  | softStop : OpcodeOf P O O.softStop .softStop 0 0
  | hardStop : OpcodeOf P O O.hardStop .hardStop 0 0
  | softHiZ : OpcodeOf P O O.softHiZ .softHiZ 0 0
  | hardHiZ : OpcodeOf P O O.hardHiZ .hardHiZ 0 0
  | resetDevice : OpcodeOf P O O.resetDevice .resetDevice 0 0
  | getStatus : OpcodeOf P O O.getStatus .getStatus 0 statusBytes

theorem motionOpcode_cases {O : OpcodeSet} {b base : Byte} (h : b = base ∨ b = base ||| O.dirMask) :
    ∃ d, b = motionOpcode O base d := by
  obtain rfl | rfl := h
  · exact ⟨false, by simp [motionOpcode]⟩
  · exact ⟨true, rfl⟩

theorem opcodeOf_of_classifyFixed {P : Profile} {O : OpcodeSet} {b : Byte} {c : Command} {n k : Nat}
    (h : classifyFixed O b = .command c n k) : OpcodeOf P O b c n k := by
  unfold classifyFixed at h
  split_ifs at h with hrun hmove hsoftStop hhardStop hsoftHiZ hhardHiZ hreset hstatus <;> cases h
  · obtain ⟨d, rfl⟩ := motionOpcode_cases hrun
    exact .run d
  · obtain ⟨d, rfl⟩ := motionOpcode_cases hmove
    exact .move d
  · exact hsoftStop ▸ .softStop
  · exact hhardStop ▸ .hardStop
  · exact hsoftHiZ ▸ .softHiZ
  · exact hhardHiZ ▸ .hardHiZ
  · exact hreset ▸ .resetDevice
  · exact hstatus ▸ .getStatus

/-- O3: no fixed opcode is taken for another one. -/
theorem classifyFixed_of_opcodes {O : OpcodeSet} (h : (nonNopOpcodes O).Nodup) :
    (∀ d, classifyFixed O (motionOpcode O O.runBase d) = .command .run motionBytes 0)
      ∧ (∀ d, classifyFixed O (motionOpcode O O.moveBase d) = .command .move motionBytes 0)
      ∧ classifyFixed O O.softStop = .command .softStop 0 0 ∧ classifyFixed O O.hardStop = .command .hardStop 0 0
      ∧ classifyFixed O O.softHiZ = .command .softHiZ 0 0 ∧ classifyFixed O O.hardHiZ = .command .hardHiZ 0 0
      ∧ classifyFixed O O.resetDevice = .command .resetDevice 0 0
      ∧ classifyFixed O O.getStatus = .command .getStatus 0 statusBytes := by
  simp only [nonNopOpcodes, List.nodup_cons, List.mem_cons, List.not_mem_nil, or_false, not_or, List.nodup_nil,
    and_true, not_false_eq_true] at h
  have hmotion : ∀ base d, motionOpcode O base d = base ∨ motionOpcode O base d = base ||| O.dirMask := by
    intro base d
    cases d <;> simp [motionOpcode]
  refine ⟨fun d => ?_, fun d => ?_, ?_, ?_, ?_, ?_, ?_, ?_⟩
  · simp [classifyFixed, hmotion]
  · grind [classifyFixed, hmotion O.moveBase d]
  all_goals grind [classifyFixed]

/-- Both bytes of a motion command are among the non-NOP opcodes. -/
theorem motionOpcode_mem (O : OpcodeSet) (d : Bool) :
    motionOpcode O O.runBase d ∈ nonNopOpcodes O ∧ motionOpcode O O.moveBase d ∈ nonNopOpcodes O := by
  cases d <;> simp [motionOpcode, nonNopOpcodes]

theorem opcodeOf_of_classify {P : Profile} {O : OpcodeSet} {b : Byte} {c : Command} {n k : Nat}
    (hflag : O.getFlag = 0x20#8) (h : classify P O b = .command c n k) : OpcodeOf P O b c n k := by
  unfold classify at h
  split at h
  case isTrue heq =>
    cases h
    exact heq ▸ .nop
  case isFalse =>
    split at h
    case h_1 m hset =>
      obtain ⟨w, hw, rfl⟩ := width_of_regBytes hset
      cases h
      have hbyte : setOpcode b.toNat = b := by simp [setOpcode]
      simpa [hbyte] using OpcodeOf.setParam (O := O) hw
    case h_2 =>
      split at h
      case isTrue hflagged =>
        split at h
        case h_1 m hget =>
          obtain ⟨w, hw, rfl⟩ := width_of_regBytes hget
          cases h
          have hbyte : getOpcode O (b.toNat % 32) = b := by
            apply BitVec.eq_of_toNat_eq
            rw [getOpcode_toNat hflag (Nat.mod_lt _ (by decide))]
            omega
          simpa [hbyte] using OpcodeOf.getParam (O := O) hw
        case h_2 => exact opcodeOf_of_classifyFixed h
      case isFalse => exact opcodeOf_of_classifyFixed h

/-- R70, R71: under a well-formed configuration classify names exactly the opcodes of the block. -/
theorem classify_eq_command_iff {P : Profile} {O : OpcodeSet} (h : configWf P O = true) {b : Byte} {c : Command}
    {n k : Nat} : classify P O b = .command c n k ↔ OpcodeOf P O b c n k := by
  refine ⟨opcodeOf_of_classify (opcodesOk h).getFlag, fun hopcode => ?_⟩
  obtain ⟨hrun, hmove, hsoftStop, hhardStop, hsoftHiZ, hhardHiZ, hreset, hstatus⟩ :=
    classifyFixed_of_opcodes (List.nodup_cons.1 (opcodesOk h).distinct).2
  cases hopcode with
  | nop => exact classify_nop P O
  | setParam hw => exact classify_setOpcode h hw
  | getParam hw => exact classify_getOpcode h hw
  | run d => rw [classify_of_mem_nonNopOpcodes h (motionOpcode_mem O d).1, hrun]
  | move d => rw [classify_of_mem_nonNopOpcodes h (motionOpcode_mem O d).2, hmove]
  | softStop => rw [classify_of_mem_nonNopOpcodes h (by simp [nonNopOpcodes]), hsoftStop]
  | hardStop => rw [classify_of_mem_nonNopOpcodes h (by simp [nonNopOpcodes]), hhardStop]
  | softHiZ => rw [classify_of_mem_nonNopOpcodes h (by simp [nonNopOpcodes]), hsoftHiZ]
  | hardHiZ => rw [classify_of_mem_nonNopOpcodes h (by simp [nonNopOpcodes]), hhardHiZ]
  | resetDevice => rw [classify_of_mem_nonNopOpcodes h (by simp [nonNopOpcodes]), hreset]
  | getStatus => rw [classify_of_mem_nonNopOpcodes h (by simp [nonNopOpcodes]), hstatus]

/-! ## The frames the encoder accepts (spec/30_encoding.md R61, R67, R74) -/

theorem setParamFrame_of_width {P : Profile} {a w : Nat} (hw : width P a = .ok w) (v : Int) :
    setParamFrame P a v = .ok ⟨setOpcode a, Machine.encode (v % 2 ^ w) (bytesNeeded w), 0⟩ := by
  simp [setParamFrame, hw]

theorem getParamFrame_of_width {P : Profile} {a w : Nat} (hw : width P a = .ok w) (O : OpcodeSet) :
    getParamFrame P O a = .ok ⟨getOpcode O a, [], bytesNeeded w⟩ := by
  simp [getParamFrame, hw]

theorem setParamFrame_eq_ok {P : Profile} {a : Nat} {v : Int} {f : Frame} (h : setParamFrame P a v = .ok f) :
    ∃ w, width P a = .ok w ∧ f = ⟨setOpcode a, Machine.encode (v % 2 ^ w) (bytesNeeded w), 0⟩ := by
  cases hw : width P a with
  | ok w => exact ⟨w, rfl, by simpa [setParamFrame, hw] using h.symm⟩
  | error e => simp [setParamFrame, hw] at h

theorem getParamFrame_eq_ok {P : Profile} {O : OpcodeSet} {a : Nat} {f : Frame} (h : getParamFrame P O a = .ok f) :
    ∃ w, width P a = .ok w ∧ f = ⟨getOpcode O a, [], bytesNeeded w⟩ := by
  cases hw : width P a with
  | ok w => exact ⟨w, rfl, by simpa [getParamFrame, hw] using h.symm⟩
  | error e => simp [getParamFrame, hw] at h

/-- The opcode byte of an encoded operation is one of its command, with the frame's byte counts. -/
theorem opcodeOf_of_encodeOp {P : Profile} {O : OpcodeSet} {i : Instr} {f : Frame} (h : encodeOp P O i = .ok f) :
    OpcodeOf P O f.op (commandOf i) f.args.length f.rspLen := by
  cases i with
  | setParam a v =>
    obtain ⟨w, hw, rfl⟩ := setParamFrame_eq_ok h
    simpa [commandOf] using OpcodeOf.setParam (O := O) hw
  | getParam a =>
    obtain ⟨w, hw, rfl⟩ := getParamFrame_eq_ok h
    exact .getParam hw
  | run speed =>
    cases h
    simpa [motionFrame, signMag, commandOf] using OpcodeOf.run (P := P) (O := O) (dirBit O speed)
  | move steps =>
    cases h
    simpa [motionFrame, signMag, commandOf] using OpcodeOf.move (P := P) (O := O) (dirBit O steps)
  | nop => cases h; exact .nop
  | softStop => cases h; exact .softStop
  | hardStop => cases h; exact .hardStop
  | softHiZ => cases h; exact .softHiZ
  | hardHiZ => cases h; exact .hardHiZ
  | resetDevice => cases h; exact .resetDevice
  | getStatus => cases h; exact .getStatus

/-- Settles O18: the frame's opcode byte is one of those classify names (classify_eq_command_iff). -/
theorem classifyNamesEveryEncodedOperation : Obligations.ClassifyNamesEveryEncodedOperation :=
  fun _ _ _ _ hconf hframe => (classify_eq_command_iff hconf).2 (opcodeOf_of_encodeOp hframe)

/-- Settles O16: the two opcode bytes as numbers, for an address below 32 (WF1). -/
theorem registerOpcodeFields : Obligations.RegisterOpcodeFields := by
  intro P O a hconf hvalid
  obtain ⟨-, hlt⟩ := lt_of_valid hconf hvalid
  rw [setOpcode_toNat hlt, getOpcode_toNat (opcodesOk hconf).getFlag hlt]
  omega

/-- R71: under the reference opcodes a byte from 0x01 to 0x3F whose bits [4:0] are no address is no opcode. -/
theorem classify_refO_of_reserved {P : Profile} (hconf : configWf P refO = true) {b : Byte} (hpos : 0 < b.toNat)
    (hlt : b.toNat < 64) (haddr : ¬ valid P (b.toNat % 32) = true) : classify P refO b = .notEmitted := by
  have hnop : b ≠ refO.nop := fun heq => absurd hpos (by rw [heq]; decide)
  have hset : ¬ valid P b.toNat = true := fun hvalid =>
    haddr (by rwa [Nat.mod_eq_of_lt (lt_of_valid hconf hvalid).2])
  have hhigh : ∀ c ∈ nonNopOpcodes refO, 64 ≤ c.toNat := by decide
  rw [classify_eq_classifyFixed hnop hset fun _ => haddr]
  exact classifyFixed_of_not_mem fun hmem => absurd (hhigh b hmem) (by omega)

theorem not_valid_of_bound_le {P : Profile} {a : Nat} (h : P.N ≤ a) : ¬ valid P a = true := fun hvalid => by
  have := (valid_iff P a).1 hvalid
  omega

/-- An encoded operation's opcode byte is emitted (R71). -/
theorem classify_ne_notEmitted {P : Profile} {O : OpcodeSet} {i : Instr} {f : Frame} (hconf : configWf P O = true)
    (hframe : encodeOp P O i = .ok f) : classify P O f.op ≠ .notEmitted := by
  simp [classifyNamesEveryEncodedOperation P O i f hconf hframe]

/-- R71: 0x00 is NOP only. -/
theorem eq_nop_of_op_eq_zero {P : Profile} {O : OpcodeSet} {i : Instr} {f : Frame} (hconf : configWf P O = true)
    (hframe : encodeOp P O i = .ok f) (hzero : f.op = 0x00#8) : i = .nop := by
  have hclassify := classifyNamesEveryEncodedOperation P O i f hconf hframe
  rw [hzero, ← (opcodesOk hconf).nop, classify_nop] at hclassify
  have hcommand : Command.nop = commandOf i := by injection hclassify
  cases i with
  | nop => rfl
  | _ => cases hcommand

/-- Settles O19: classify names every encoded opcode byte (O18) and none of the reserved ones. -/
theorem reservedOpcodesAreNeverEncoded : Obligations.ReservedOpcodesAreNeverEncoded := by
  refine ⟨fun P O i f hconf hframe => ⟨classify_ne_notEmitted hconf hframe, eq_nop_of_op_eq_zero hconf hframe⟩,
    fun P i f hconf hframe => ?_⟩
  have hreserved : ∀ b : Byte, 0 < b.toNat → b.toNat < 64 → ¬ valid P (b.toNat % 32) = true → f.op ≠ b :=
    fun b hpos hlt haddr heq =>
      classify_ne_notEmitted hconf hframe (heq ▸ classify_refO_of_reserved hconf hpos hlt haddr)
  refine ⟨hreserved _ (by decide) (by decide) (by simp [valid]), fun a hbound ha => ?_⟩
  obtain ⟨hN, -⟩ := bound_range ((configWf_iff P refO).1 hconf).1
  have haddr : ¬ valid P (a % 32) = true := not_valid_of_bound_le (by omega)
  have hset : (BitVec.ofNat 8 a).toNat = a := setOpcode_toNat (by omega)
  have hget : (0x20#8 ||| BitVec.ofNat 8 a).toNat = 0x20 + a := getOpcode_toNat (O := refO) rfl (by omega)
  constructor
  · exact hreserved _ (by omega) (by omega) (by rwa [hset])
  · exact hreserved _ (by omega) (by omega) (by rwa [hget, Nat.add_mod_left])

/-! ## Sign and magnitude (spec/43_motion.md R140) -/

/-- The motion argument of a direction and a 24-bit magnitude (log 11). `canonicalMotion_eq` and `motionArgument_eq` tie it
to the model. -/
def signedMagnitude (nonneg : Bool) (m : Nat) : Int := if nonneg then m else if m = 0 then -2 ^ 24 else -m

theorem canonicalMotion_eq (s : Int) : canonicalMotion s = signedMagnitude (decide (0 ≤ s)) (s.natAbs % 2 ^ 24) := by
  simp [canonicalMotion, signedMagnitude]

theorem nonneg_signedMagnitude_iff (nonneg : Bool) (m : Nat) : 0 ≤ signedMagnitude nonneg m ↔ nonneg = true := by
  cases nonneg with
  | true => simp [signedMagnitude]
  | false =>
    simp only [signedMagnitude, Bool.false_eq_true, if_false, iff_false]
    split_ifs <;> omega

theorem natAbs_signedMagnitude_mod (nonneg : Bool) {m : Nat} (hm : m < 2 ^ 24) :
    (signedMagnitude nonneg m).natAbs % 2 ^ 24 = m := by
  unfold signedMagnitude
  split_ifs <;> omega

theorem motionWellFormed_signedMagnitude (nonneg : Bool) {m : Nat} (hm : m < 2 ^ 24) :
    motionWellFormed (signedMagnitude nonneg m) = true := by
  rw [motionWellFormed_iff]
  unfold signedMagnitude
  split_ifs <;> omega

theorem canonicalMotion_of_motionWellFormed {s : Int} (h : motionWellFormed s = true) : canonicalMotion s = s := by
  obtain ⟨hlow, hhigh⟩ := (motionWellFormed_iff s).1 h
  simp only [canonicalMotion_eq, signedMagnitude, decide_eq_true_eq]
  split_ifs <;> omega

theorem dirBit_eq_dirNonneg_iff (O : OpcodeSet) (s : Int) : dirBit O s = O.dirNonneg ↔ 0 ≤ s := by
  unfold dirBit
  split <;> simp [*]

/-- O2: the direction bit is read back from a motion opcode. -/
theorem motionOpcode_direction {O : OpcodeSet} {base : Byte} (hmask : O.dirMask ≠ 0#8)
    (hbase : base &&& O.dirMask = 0#8) (d : Bool) : ((motionOpcode O base d &&& O.dirMask) != 0#8) = d := by
  cases d with
  | false => simp [motionOpcode, hbase]
  | true =>
    have hand : (base ||| O.dirMask) &&& O.dirMask = O.dirMask := by
      rw [BitVec.and_or_distrib_right, hbase]
      simp
    simp [motionOpcode, hand, hmask]

theorem motionArgument_eq {O : OpcodeSet} {base : Byte} (hmask : O.dirMask ≠ 0#8) (hbase : base &&& O.dirMask = 0#8)
    (d : Bool) (args : List Byte) :
    motionArgument O (motionOpcode O base d) args = signedMagnitude (d == O.dirNonneg) (decodeBE args) := by
  simp [motionArgument, motionOpcode_direction hmask hbase, signedMagnitude]

theorem decodeBE_magnitude (s : Int) : decodeBE (signMag O s).2 = s.natAbs % 2 ^ 24 := by
  have hcodec : (decodeBE (signMag O s).2 : Int) = (s.natAbs : Int) % 2 ^ 24 := decodeBE_encode (s.natAbs : Int) 3
  exact_mod_cast hcodec

/-- A motion frame depends on the sign and the low 24 bits of the magnitude alone (R140). -/
theorem motionFrame_congr (O : OpcodeSet) (base : Byte) {s t : Int} (hsign : 0 ≤ s ↔ 0 ≤ t)
    (hmagnitude : s.natAbs % 2 ^ 24 = t.natAbs % 2 ^ 24) : motionFrame O base s = motionFrame O base t := by
  have hdir : dirBit O s = dirBit O t := by simp [dirBit, hsign]
  have hbytes : (signMag O s).2 = (signMag O t).2 :=
    eq_of_decodeBE_eq (by simp [signMag]) (by rw [decodeBE_magnitude, decodeBE_magnitude, hmagnitude])
  rw [motionFrame, motionFrame, hbytes]
  simp [signMag, hdir]

theorem motionFrame_canonicalMotion (O : OpcodeSet) (base : Byte) (s : Int) :
    motionFrame O base (canonicalMotion s) = motionFrame O base s := by
  have hm : s.natAbs % 2 ^ 24 < 2 ^ 24 := Nat.mod_lt _ (by decide)
  rw [canonicalMotion_eq]
  exact motionFrame_congr O base (by simp [nonneg_signedMagnitude_iff]) (natAbs_signedMagnitude_mod _ hm)

section
variable {O : OpcodeSet} {base : Byte} (hmask : O.dirMask ≠ 0#8) (hbase : base &&& O.dirMask = 0#8)
include hmask hbase

/-- The argument read back from a motion frame is the canonical one. -/
theorem motionArgument_motionFrame (s : Int) :
    motionArgument O (motionFrame O base s).op (motionFrame O base s).args = canonicalMotion s := by
  have hdir : (dirBit O s == O.dirNonneg) = decide (0 ≤ s) := by
    rw [Bool.eq_iff_iff, beq_iff_eq, decide_eq_true_eq, dirBit_eq_dirNonneg_iff]
  simp only [motionFrame]
  rw [motionArgument_eq hmask hbase, decodeBE_magnitude, canonicalMotion_eq, ← hdir]
  rfl

/-- The frame of the argument read from a motion opcode and three bytes is that opcode and those bytes. -/
theorem motionFrame_motionArgument (d : Bool) {args : List Byte} (hlength : args.length = motionBytes) :
    motionFrame O base (motionArgument O (motionOpcode O base d) args) = ⟨motionOpcode O base d, args, 0⟩ := by
  have hm : decodeBE args < 2 ^ 24 := by simpa [hlength, motionBytes] using decodeBE_lt args
  rw [motionArgument_eq hmask hbase]
  have hdir : dirBit O (signedMagnitude (d == O.dirNonneg) (decodeBE args)) = d := by
    simp only [dirBit, nonneg_signedMagnitude_iff]
    cases d <;> cases O.dirNonneg <;> rfl
  have hbytes : (signMag O (signedMagnitude (d == O.dirNonneg) (decodeBE args))).2 = args := by
    refine eq_of_decodeBE_eq (by simp [signMag, hlength]) ?_
    rw [decodeBE_magnitude, natAbs_signedMagnitude_mod _ hm]
  rw [motionFrame, hbytes]
  simp [signMag, hdir]

end

/-! ## Operations in canonical form (spec/30_encoding.md R67, R68) -/

/-- An operation and its canonical form have one frame, or are refused alike. -/
theorem encodeOp_canonical (P : Profile) (O : OpcodeSet) (i : Instr) :
    encodeOp P O (canonical P i) = encodeOp P O i := by
  cases i with
  | setParam a v =>
    cases hw : width P a with
    | ok w => simp [canonical, hw, encodeOp, setParamFrame_of_width hw]
    | error e => simp [canonical, hw]
  | run speed => exact congrArg Except.ok (motionFrame_canonicalMotion O O.runBase speed)
  | move steps => exact congrArg Except.ok (motionFrame_canonicalMotion O O.moveBase steps)
  | _ => rfl

theorem motionWellFormed_canonicalMotion (s : Int) : motionWellFormed (canonicalMotion s) = true := by
  rw [canonicalMotion_eq]
  exact motionWellFormed_signedMagnitude _ (Nat.mod_lt _ (by decide))

theorem valueWellFormed_iff {P : Profile} {a w : Nat} (hw : width P a = .ok w) (v : Int) :
    valueWellFormed P a v = true ↔ 0 ≤ v ∧ v < 2 ^ w := by
  simp [valueWellFormed, hw]

theorem wellFormed_canonical {P : Profile} {O : OpcodeSet} {i : Instr} {f : Frame} (h : encodeOp P O i = .ok f) :
    (canonical P i).wellFormed P = true := by
  cases i with
  | setParam a v =>
    obtain ⟨w, hw, -⟩ := setParamFrame_eq_ok h
    have hpos : (0 : Int) < 2 ^ w := by positivity
    simp [canonical, hw, Instr.wellFormed, addrWellFormed, width_ok hw, valueWellFormed_iff hw,
      Int.emod_nonneg v hpos.ne', Int.emod_lt_of_pos v hpos]
  | getParam a =>
    obtain ⟨w, hw, -⟩ := getParamFrame_eq_ok h
    exact (width_ok hw).1
  | run speed => exact motionWellFormed_canonicalMotion speed
  | move steps => exact motionWellFormed_canonicalMotion steps
  | _ => rfl

theorem canonical_of_wellFormed {P : Profile} {i : Instr} (h : i.wellFormed P = true) : canonical P i = i := by
  cases i with
  | setParam a v =>
    cases hw : width P a with
    | ok w =>
      obtain ⟨-, hvalue⟩ := Bool.and_eq_true_iff.1 h
      obtain ⟨hnonneg, hlt⟩ := (valueWellFormed_iff hw v).1 hvalue
      simp [canonical, hw, Int.emod_eq_of_lt hnonneg hlt]
    | error e => simp [canonical, hw]
  | run speed => exact congrArg Instr.run (canonicalMotion_of_motionWellFormed h)
  | move steps => exact congrArg Instr.move (canonicalMotion_of_motionWellFormed h)
  | _ => rfl

/-- The encoder accepts every operation in canonical form. -/
theorem exists_frame_of_wellFormed {P : Profile} (hP : profileWf P = true) (O : OpcodeSet) {i : Instr}
    (h : i.wellFormed P = true) : ∃ f, encodeOp P O i = .ok f := by
  cases i with
  | setParam a v =>
    obtain ⟨haddr, -⟩ := Bool.and_eq_true_iff.1 h
    obtain ⟨w, hw⟩ := exists_width_of_valid hP haddr
    exact ⟨_, setParamFrame_of_width hw v⟩
  | getParam a =>
    obtain ⟨w, hw⟩ := exists_width_of_valid hP h
    exact ⟨_, getParamFrame_of_width hw O⟩
  | _ => exact ⟨_, rfl⟩

/-! ## From frames to operations and back (spec/30_encoding.md R70) -/

theorem le_eight_mul_bytesNeeded (w : Nat) : w ≤ 8 * bytesNeeded w := by
  unfold bytesNeeded
  omega

/-- A value below the width's bound is read back from its bytes (R103). -/
theorem decodeBE_encode_masked (w : Nat) (v : Int) :
    (decodeBE (Machine.encode (v % 2 ^ w) (bytesNeeded w)) : Int) = v % 2 ^ w := by
  have hpos : (0 : Int) < 2 ^ w := by positivity
  have hle : (2 : Int) ^ w ≤ 2 ^ (8 * bytesNeeded w) := pow_le_pow_right₀ (by decide) (le_eight_mul_bytesNeeded w)
  rw [decodeBE_encode, Int.emod_eq_of_lt (Int.emod_nonneg v hpos.ne') ((Int.emod_lt_of_pos v hpos).trans_le hle)]

/-- The operands read from an operation's frame are those of its canonical form. -/
theorem assemble_of_encodeOp {P : Profile} {O : OpcodeSet} {i : Instr} {f : Frame} (hconf : configWf P O = true)
    (h : encodeOp P O i = .ok f) : assemble O (commandOf i) f.op f.args = canonical P i := by
  have hok := opcodesOk hconf
  cases i with
  | setParam a v =>
    obtain ⟨w, hw, rfl⟩ := setParamFrame_eq_ok h
    simp [commandOf, assemble, canonical, hw, decodeBE_encode_masked]
  | run speed =>
    cases h
    exact congrArg Instr.run (motionArgument_motionFrame hok.dirMask hok.runBase speed)
  | move steps =>
    cases h
    exact congrArg Instr.move (motionArgument_motionFrame hok.dirMask hok.moveBase steps)
  | _ => rfl

/-- The frame of a well-formed operation read from an opcode and its argument bytes is that opcode and those bytes. -/
theorem encodeOp_assemble {P : Profile} {O : OpcodeSet} {b : Byte} {c : Command} {n k : Nat} {args : List Byte}
    (hconf : configWf P O = true) (hopcode : OpcodeOf P O b c n k) (hlength : args.length = n)
    (hwf : (assemble O c b args).wellFormed P = true) : encodeOp P O (assemble O c b args) = .ok ⟨b, args, k⟩ := by
  have hok := opcodesOk hconf
  have hnil : n = 0 → args = [] := fun h => List.length_eq_zero_iff.1 (hlength.trans h)
  cases hopcode with
  | setParam hw =>
    obtain ⟨-, hvalue⟩ := Bool.and_eq_true_iff.1 hwf
    obtain ⟨hnonneg, hlt⟩ := (valueWellFormed_iff hw _).1 hvalue
    simp only [assemble, encodeOp, setParamFrame_of_width hw]
    rw [Int.emod_eq_of_lt hnonneg hlt, ← hlength, encode_decodeBE]
  | getParam hw => simp only [assemble, encodeOp, getParamFrame_of_width hw, hnil rfl]
  | run d => exact congrArg Except.ok (motionFrame_motionArgument hok.dirMask hok.runBase d hlength)
  | move d => exact congrArg Except.ok (motionFrame_motionArgument hok.dirMask hok.moveBase d hlength)
  | _ => rw [hnil rfl]; rfl

theorem encode_eq_ok_iff {P : Profile} {O : OpcodeSet} {i : Instr} {bs : List Byte} :
    Sys2Proof.encode P O i = .ok bs ↔ ∃ f, encodeOp P O i = .ok f ∧ bs = sentBytes f := by
  unfold Sys2Proof.encode
  cases encodeOp P O i <;> simp [sentBytes, eq_comm]

/-- A byte list decodes to what classify and the argument bytes after its first byte say, and to nothing else. -/
theorem decode_eq_ok_iff {P : Profile} {O : OpcodeSet} {i : Instr} {bs rest : List Byte} :
    decode P O bs = .ok (i, rest) ↔
      ∃ b c args k, bs = b :: args ++ rest ∧ classify P O b = .command c args.length k ∧ i = assemble O c b args := by
  constructor
  · intro h
    obtain _ | ⟨b, bs⟩ := bs
    · cases h
    · simp only [decode] at h
      split at h
      case h_1 => cases h
      case h_2 c n k hclassify =>
        split at h
        case isTrue => cases h
        case isFalse hlong =>
          obtain ⟨rfl, rfl⟩ : assemble O c b (bs.take n) = i ∧ bs.drop n = rest := by simpa using h
          have hlength : (bs.take n).length = n := List.length_take_of_le (Nat.not_lt.1 hlong)
          exact ⟨b, c, bs.take n, k, by simp, by rw [hlength, hclassify], rfl⟩
  · rintro ⟨b, c, args, k, rfl, hclassify, rfl⟩
    simp [decode, hclassify]

/-- Decoding an encoded operation's bytes gives its canonical form and leaves what follows (R70). -/
theorem decode_encode {P : Profile} {O : OpcodeSet} {i : Instr} {bs : List Byte} (hconf : configWf P O = true)
    (h : Sys2Proof.encode P O i = .ok bs) (rest : List Byte) : decode P O (bs ++ rest) = .ok (canonical P i, rest) := by
  obtain ⟨f, hframe, rfl⟩ := encode_eq_ok_iff.1 h
  exact decode_eq_ok_iff.2 ⟨f.op, commandOf i, f.args, f.rspLen, rfl,
    classifyNamesEveryEncodedOperation P O i f hconf hframe, (assemble_of_encodeOp hconf hframe).symm⟩

/-- Settles O21: the bytes decode to the canonical form, which has the same frame. -/
theorem decodeOfEncodedIsCanonical : Obligations.DecodeOfEncodedIsCanonical := by
  intro P O i bs hconf h
  obtain ⟨f, hframe, rfl⟩ := encode_eq_ok_iff.1 h
  refine ⟨by simpa using decode_encode hconf h [], ?_, wellFormed_canonical hframe⟩
  exact encode_eq_ok_iff.2 ⟨f, (encodeOp_canonical P O i).trans hframe, rfl⟩

/-- Settles O20: a well-formed operation is accepted by the encoder, and is its own canonical form. -/
theorem decodeInvertsEncode : Obligations.DecodeInvertsEncode := by
  intro P O i hconf hwf
  obtain ⟨f, hframe⟩ := exists_frame_of_wellFormed ((configWf_iff P O).1 hconf).1 O hwf
  have hbytes : Sys2Proof.encode P O i = .ok (sentBytes f) := encode_eq_ok_iff.2 ⟨f, hframe, rfl⟩
  refine ⟨sentBytes f, hbytes, fun rest => ?_⟩
  rw [decode_encode hconf hbytes rest, canonical_of_wellFormed hwf]

/-- Settles O22: the first byte is one of the block's opcodes (classify_eq_command_iff), and the frame of what was read from
it and its argument bytes is those bytes (encodeOp_assemble). -/
theorem encodeInvertsDecode : Obligations.EncodeInvertsDecode := by
  intro P O i bs rest hconf hdecode hwf
  obtain ⟨b, c, args, k, rfl, hclassify, rfl⟩ := decode_eq_ok_iff.1 hdecode
  have hframe := encodeOp_assemble hconf ((classify_eq_command_iff hconf).1 hclassify) rfl hwf
  exact ⟨b :: args, encode_eq_ok_iff.2 ⟨_, hframe, rfl⟩, rfl⟩

/-! ## Requests given as bytes or spelled (spec/30_encoding.md R70 to R73) -/

theorem readForm_wire {P : Profile} {O : OpcodeSet} {bs : List Byte} {i : Instr} (h : decode P O bs = .ok (i, [])) :
    readForm P O (.wire bs) = .ok i := by
  simp [readForm, h]

theorem readForm_wire_notEmitted {P : Profile} {O : OpcodeSet} {b : Byte} (h : classify P O b = .notEmitted)
    (bs : List Byte) : readForm P O (.wire (b :: bs)) = .error (.notEmitted b) := by
  simp [readForm, decode, h]

/-- Where the chosen move takes a request that stands for no operation, the step is refused for that request's reason. -/
theorem step_of_chosen_refused {s : State} {k : Nat} {r : Request} {e : Refusal} (hconf : configured s = true)
    (hchosen : chosen s = some (.issue k)) (hreq : s.requests[k]? = some r)
    (hread : readForm s.profile s.opcodes r.form = .error e) : step s = .refused e := by
  rw [step_of_chosen hconf hchosen]
  simp [runMove, runRequest, hreq, hread]

/-- Settles O48: a frame's bytes read as the operation they decode to. -/
theorem stepRunsDecodedFrame : Obligations.StepRunsDecodedFrame := by
  intro s k c bs i hconf hchosen hreq hdecode
  have hstep : step s = exec i (takeRequest k ⟨c, .wire bs⟩ (afterChoice s)) :=
    step_of_chosen_issue hconf hchosen hreq (readForm_wire hdecode)
  simpa [takeRequest] using hstep

/-- Settles O51: bytes that begin with a byte that is no opcode read as a refusal of that byte. -/
theorem notEmittedByteIsRefused : Obligations.NotEmittedByteIsRefused :=
  fun _ _ _ _ bs hconf hchosen hreq hclassify =>
    step_of_chosen_refused hconf hchosen hreq (readForm_wire_notEmitted hclassify bs)

/-- Settles O23: each word is evaluated under the reference configuration. -/
theorem tableWordsDecodeAsWritten : Obligations.TableWordsDecodeAsWritten := by
  refine ⟨?_, ?_, ?_, ?_, ?_, ?_, ?_, ?_, ?_⟩ <;> decide

/-- Settles O53: each spelling is read by evaluation, those without a register name whatever the profile. -/
theorem spelledOperationsAreRead : Obligations.SpelledOperationsAreRead :=
  ⟨fun _ => ⟨rfl, rfl, rfl, rfl, rfl, rfl, rfl, rfl, rfl, rfl, rfl, rfl⟩, rfl, rfl, rfl, rfl⟩

/-! ## A table word as the next request -/

/-- The bytes of the first frame decode to its operation, with nothing left (R70). -/
theorem decode_firstFrame {P : Profile} {O : OpcodeSet} {bs rest : List Byte} {i : Instr}
    (h : decode P O bs = .ok (i, rest)) : decode P O (firstFrame P O bs) = .ok (i, []) := by
  obtain ⟨b, c, args, k, rfl, hclassify, rfl⟩ := decode_eq_ok_iff.1 h
  exact decode_eq_ok_iff.2 ⟨b, c, args, k, by simp [firstFrame, hclassify], hclassify, rfl⟩

theorem freshCaller_free (s : State) : callerFree s (freshCaller s) = true := by
  have hlt : ∀ c ∈ s.owner.toList ++ s.waiting.map Waiter.caller ++ s.requests.map Request.caller, c < freshCaller s :=
    fun c hc => Nat.lt_succ_of_le ((List.max?_eq_some_iff.1 List.max?_cons').2 c (List.mem_cons_of_mem 0 hc))
  rw [callerFree_iff]
  constructor
  · intro howner
    have hmem : freshCaller s ∈ s.owner.toList := by simp [howner]
    exact (hlt _ (List.mem_append_left _ (List.mem_append_left _ hmem))).false
  · intro hwaiting
    exact (hlt _ (List.mem_append_left _ (List.mem_append_right _ hwaiting))).false

/-- `s` with one request more, before all others. -/
def withFirstRequest (r : Request) (s : State) : State := { s with requests := r :: s.requests }

/-- The first request can be taken where its caller is free, and is the first of the possible moves. -/
theorem moves_withFirstRequest {r : Request} {s : State} (hfree : callerFree s r.caller = true) :
    ∃ others, moves (withFirstRequest r s) = .issue 0 :: others := by
  have hfirst : issuable (withFirstRequest r s) 0 = true := by
    have hfree' : callerFree (withFirstRequest r s) r.caller = true := hfree
    simpa [issuable, withFirstRequest] using hfree'
  have hlength : (withFirstRequest r s).requests.length = s.requests.length + 1 := rfl
  rw [moves, hlength, List.range_succ_eq_map, List.filter_cons_of_pos hfirst]
  exact ⟨_, rfl⟩

/-- The choice 0 in front of the schedule is of the first possible move, and is used up by the step that takes it. -/
theorem chosen_of_schedule_zero {s : State} {m n : Move} {ms : List Move} (h : moves s = m :: n :: ms) :
    chosen { s with schedule := 0 :: s.schedule } = some m ∧ afterChoice { s with schedule := 0 :: s.schedule } = s := by
  have hmoves : moves { s with schedule := 0 :: s.schedule } = m :: n :: ms := h
  simp [chosen, afterChoice, hmoves, nextChoice, dropChoice]

theorem chosen_of_single_move {s : State} {m : Move} (h : moves s = [m]) : chosen s = some m ∧ afterChoice s = s := by
  simp [chosen, afterChoice, h]

/-- A presented frame is the first request, and what is chosen next: a choice put first for it is used up by that step. -/
theorem chosen_presentFrame (bs : List Byte) (s : State) :
    chosen (presentFrame bs s) = some (.issue 0)
      ∧ afterChoice (presentFrame bs s)
        = withFirstRequest ⟨freshCaller s, .wire (firstFrame s.profile s.opcodes bs)⟩ s := by
  obtain ⟨others, hmoves⟩ := moves_withFirstRequest
    (r := ⟨freshCaller s, .wire (firstFrame s.profile s.opcodes bs)⟩) (freshCaller_free s)
  unfold presentFrame
  simp only [withFirstRequest] at hmoves ⊢
  cases others with
  | nil => simpa only [hmoves] using chosen_of_single_move hmoves
  | cons n ms => simpa only [hmoves] using chosen_of_schedule_zero hmoves

/-- Taking the first request leaves the state without it, and its caller as the issuer. -/
theorem runRequest_withFirstRequest {r : Request} {s : State} {i : Instr}
    (hread : readForm s.profile s.opcodes r.form = .ok i) :
    runRequest 0 (withFirstRequest r s) = exec i { s with issuer := r.caller } := by
  simp [runRequest, withFirstRequest, hread, takeRequest]

/-- Settles O50: the step takes the first request, which is the word's first frame, with the choice made for it used up. -/
theorem fetchWordRunsInNextStep : Obligations.FetchWordRunsInNextStep := by
  intro s nbits w i rest hconf hdecode
  obtain ⟨hchosen, hafter⟩ := chosen_presentFrame (tableFrame nbits w) s
  have hconf' : configured (s.withFetchWord nbits w) = true := by
    rw [State.withFetchWord, ← configured_congr (afterChoice_profile _) (afterChoice_opcodes _), hafter]
    exact hconf
  rw [step_of_chosen hconf' hchosen, State.withFetchWord, hafter]
  exact runRequest_withFirstRequest (readForm_wire (decode_firstFrame hdecode))

/-! ## Frames in flight and waiting stay frames of operations (spec/30_encoding.md R71, R72) -/

theorem framesEncoded_openTransaction {s : State} {f : Frame} (c : Caller) (h : FramesEncoded s)
    (hemitted : Emitted s.profile s.opcodes f) : FramesEncoded (openTransaction c f s) := by
  obtain ⟨-, hwaiting⟩ := h
  refine ⟨fun g hg => ?_, hwaiting⟩
  cases hg
  exact hemitted

theorem framesEncoded_waitForLock {s : State} {f : Frame} (h : FramesEncoded s)
    (hemitted : Emitted s.profile s.opcodes f) : FramesEncoded (waitForLock f s) := by
  obtain ⟨hflight, hwaiting⟩ := h
  refine ⟨hflight, fun w hw => ?_⟩
  rw [waitForLock_waiting, List.mem_append, List.mem_singleton] at hw
  obtain hw | rfl := hw
  · exact hwaiting w hw
  · exact hemitted

/-- An operation handed over adds at most its own frame. -/
theorem framesEncoded_submit {s : State} (h : FramesEncoded s) (i : Instr) :
    FramesEncoded (submit (encodeOp s.profile s.opcodes i) s) := by
  obtain ⟨e, -, hsubmit⟩ | ⟨f, hf, -, hsubmit⟩ | ⟨f, c, hf, -, hsubmit⟩ :=
    submit_cases (encodeOp s.profile s.opcodes i) s <;> rw [hsubmit]
  · exact (sameBlock_deliver _ _ s).framesEncoded_iff.2 h
  · exact framesEncoded_openTransaction _ h ⟨i, hf⟩
  · exact framesEncoded_waitForLock h ⟨i, hf⟩

/-- A waiting caller's frame becomes the one in flight. -/
theorem framesEncoded_grant {s : State} {k : Nat} {w : Waiter} (h : FramesEncoded s) (hw : s.waiting[k]? = some w) :
    FramesEncoded (openTransaction w.caller w.frame (dropWaiter k s)) := by
  obtain ⟨hflight, hwaiting⟩ := h
  have hdrop : FramesEncoded (dropWaiter k s) := ⟨hflight, fun v hv => hwaiting v (List.mem_of_mem_eraseIdx hv)⟩
  exact framesEncoded_openTransaction _ hdrop (hwaiting w (List.mem_of_getElem? hw))

/-- A primitive keeps the frame in flight or ends it. -/
theorem PrimitiveEffect.phase_eq_or_idle {f : Frame} {s t : State} (h : PrimitiveEffect f s t) :
    t.phase = s.phase ∨ t.phase = .idle := by
  cases h <;> simp

theorem framesEncoded_advance {s : State} {f : Frame} (h : FramesEncoded s) (hactive : s.phase = .active f) :
    FramesEncoded (advance s) := by
  have heffect := advance_primitiveEffect hactive
  obtain ⟨hprofile, hopcodes, -, hwaiting, -⟩ := heffect.leaves_callers
  obtain ⟨hflightEnc, hwaitEnc⟩ := (sameBlock_dropAnswer s).framesEncoded_iff.2 h
  rw [FramesEncoded, hprofile, hopcodes, hwaiting]
  refine ⟨fun g hg => ?_, hwaitEnc⟩
  obtain hphase | hphase := heffect.phase_eq_or_idle
  · exact hflightEnc g (hphase ▸ hg)
  · simp [hphase] at hg

/-- Settles O58: by what a step can be (step_next_cases): nothing, an operation handed over, a lock granted, a primitive. -/
theorem stepKeepsFramesEncoded : Obligations.StepKeepsFramesEncoded := by
  intro s t h hstep
  have hafter : FramesEncoded (afterChoice s) := (sameBlock_afterChoice s).framesEncoded_iff.2 h
  obtain ⟨-, rfl | ⟨k, r, i, -, -, -, rfl⟩ | ⟨k, w, -, hw, rfl⟩ | ⟨f, hactive, rfl⟩⟩ := step_next_cases hstep
  · exact h
  · have htaken := (sameBlock_takeRequest k r (afterChoice s)).framesEncoded_iff.2 hafter
    simpa using framesEncoded_submit htaken i
  · exact framesEncoded_grant hafter (by simpa using hw)
  · exact framesEncoded_advance hafter (by simpa using hactive)

end Sys2Proof.Proofs

namespace Sys2Proof.Proofs

open Sys2Proof.Machine

/-! ## The lookups of the register map (spec/40_register_map.md R90 to R92) -/

theorem width_of_not_valid {P : Profile} {a : Nat} (h : ¬ valid P a = true) :
    width P a = .error (.invalidRegister a) := by
  simp [width, h]

/-- R92: the byte counts on the range of register widths (WF3). -/
theorem bytesNeeded_cases {w : Nat} (h : 4 ≤ w ∧ w ≤ 22) :
    (4 ≤ w ∧ w ≤ 8 ∧ bytesNeeded w = 1) ∨ (9 ≤ w ∧ w ≤ 16 ∧ bytesNeeded w = 2)
      ∨ (17 ≤ w ∧ w ≤ 22 ∧ bytesNeeded w = 3) := by
  unfold bytesNeeded
  omega

/-- Settles O1: validity is the conjunction of the two bounds. -/
theorem validAddressesRunFromOneToBound : Obligations.ValidAddressesRunFromOneToBound :=
  valid_iff

/-- Settles O2: WF2 gives a valid address a width, which is its row's (width_ok) and in range (WF3). -/
theorem widthOfEveryAddress : Obligations.WidthOfEveryAddress := by
  intro P a hP
  refine ⟨fun ha => ?_, fun ha => width_of_not_valid (by simp [ha])⟩
  obtain ⟨w, hw⟩ := exists_width_of_valid hP ha
  obtain ⟨-, row, hrow, rfl⟩ := width_ok hw
  exact ⟨row, hrow, hw, width_range hP hw⟩

/-- Settles O3: regBytes follows the width, whose range has the three byte counts. -/
theorem registerBytesFollowWidth : Obligations.RegisterBytesFollowWidth := by
  intro P a hP
  refine ⟨fun ha => ?_, fun ha => regBytes_of_not_valid (by simp [ha])⟩
  obtain ⟨w, hw⟩ := exists_width_of_valid hP ha
  exact ⟨w, hw, regBytes_of_width hw, bytesNeeded_cases (width_range hP hw)⟩

/-! ## The construction of a profile (spec/40_register_map.md R93) -/

theorem profileWf_iff (P : Profile) :
    profileWf P = true ↔
      (2 ≤ P.N ∧ P.N ≤ 0x20) ∧ P.rows.length + 1 = P.N ∧ (∀ row ∈ P.rows, 4 ≤ row.width ∧ row.width ≤ 22)
        ∧ layoutWf P.layout = true := by
  simp only [profileWf, Bool.and_eq_true, decide_eq_true_eq, List.all_eq_true, widthOk_iff, and_assoc]

section
variable {table : List (Nat × RegisterRow)}

/-- WF2 and WF3 on the first address, then the rest of the table. -/
theorem collectRows_succ_eq_ok_iff {a n : Nat} {rows : List RegisterRow} :
    collectRows table a (n + 1) = .ok rows ↔
      ∃ row rest, table.lookup a = some row ∧ (4 ≤ row.width ∧ row.width ≤ 22)
        ∧ collectRows table (a + 1) n = .ok rest ∧ rows = row :: rest := by
  rw [collectRows]
  cases table.lookup a with
  | none => simp
  | some row =>
    by_cases hwidth : widthOk row.width = true
    · cases collectRows table (a + 1) n <;> simp [hwidth, (widthOk_iff _).1 hwidth, eq_comm]
    · simp [hwidth, mt (widthOk_iff _).2 hwidth]

/-- The collected rows are the table's at the addresses `a .. a + n - 1`, each of a width in range. -/
theorem rows_of_collectRows {a n : Nat} {rows : List RegisterRow} (h : collectRows table a n = .ok rows) :
    rows.length = n ∧ (∀ row ∈ rows, 4 ≤ row.width ∧ row.width ≤ 22)
      ∧ ∀ i < n, rows[i]? = table.lookup (a + i) := by
  induction n generalizing a rows with
  | zero =>
    obtain rfl : [] = rows := Except.ok.inj h
    simp
  | succ n ih =>
    obtain ⟨row, rest, hlookup, hwidth, hrest, rfl⟩ := collectRows_succ_eq_ok_iff.1 h
    obtain ⟨hlength, hwidths, hrows⟩ := ih hrest
    refine ⟨by simp [hlength], by simpa [hwidth] using hwidths, fun i hi => ?_⟩
    cases i with
    | zero => simp [hlookup]
    | succ i => rw [List.getElem?_cons_succ, hrows i (by omega), Nat.add_right_comm, Nat.add_assoc]

/-- The collection succeeds exactly where each address has a row of a width in range. -/
theorem exists_collectRows_iff {a n : Nat} :
    (∃ rows, collectRows table a n = .ok rows) ↔
      ∀ b, a ≤ b → b < a + n → ∃ row, table.lookup b = some row ∧ 4 ≤ row.width ∧ row.width ≤ 22 := by
  induction n generalizing a with
  | zero => exact ⟨fun _ b hle hlt => by omega, fun _ => ⟨[], rfl⟩⟩
  | succ n ih =>
    constructor
    · rintro ⟨rows, h⟩ b hle hlt
      obtain ⟨row, rest, hlookup, hwidth, hrest, -⟩ := collectRows_succ_eq_ok_iff.1 h
      obtain rfl | hlater := Nat.eq_or_lt_of_le hle
      · exact ⟨row, hlookup, hwidth⟩
      · exact ih.1 ⟨rest, hrest⟩ b hlater (by omega)
    · intro h
      obtain ⟨row, hlookup, hwidth⟩ := h a le_rfl (by omega)
      obtain ⟨rest, hrest⟩ := (ih (a := a + 1)).2 fun b hle hlt => h b (by omega) (by omega)
      exact ⟨row :: rest, collectRows_succ_eq_ok_iff.2 ⟨row, rest, hlookup, hwidth, hrest, rfl⟩⟩

/-- R93: the requirements of makeProfile, and what it builds. -/
theorem makeProfile_eq_ok_iff {V : Variant} {N : Nat} {layout : List LayoutEntry} {P : Profile} :
    makeProfile V N table layout = .ok P ↔
      (2 ≤ N ∧ N ≤ 0x20) ∧ layoutWf layout = true
        ∧ ∃ rows, collectRows table 1 (N - 1) = .ok rows ∧ P = ⟨V, N, rows, layout⟩ := by
  unfold makeProfile
  by_cases hN : 2 ≤ N ∧ N ≤ 0x20
  · cases collectRows table 1 (N - 1) with
    | error e => simp [hN]
    | ok rows => by_cases hlayout : layoutWf layout = true <;> simp [hN, hlayout, eq_comm]
  · simp [hN]

/-- What makeProfile builds is well-formed, and its rows are the table's. -/
theorem profile_of_makeProfile {V : Variant} {N : Nat} {layout : List LayoutEntry} {P : Profile}
    (h : makeProfile V N table layout = .ok P) :
    profileWf P = true ∧ P.variant = V ∧ P.N = N ∧ P.layout = layout
      ∧ ∀ a, 1 ≤ a → a < N → P.rows[a - 1]? = table.lookup a := by
  obtain ⟨hN, hlayout, rows, hcollect, rfl⟩ := makeProfile_eq_ok_iff.1 h
  obtain ⟨hlength, hwidths, hrows⟩ := rows_of_collectRows hcollect
  have hbound : rows.length + 1 = N := by omega
  refine ⟨(profileWf_iff _).2 ⟨hN, hbound, hwidths, hlayout⟩, rfl, rfl, rfl, fun a hpos hlt => ?_⟩
  rw [hrows (a - 1) (by omega), Nat.add_sub_of_le hpos]

/-- makeProfile succeeds exactly where N passes WF1, the table WF2 and WF3, and the layout WF4. -/
theorem exists_makeProfile_iff {V : Variant} {N : Nat} {layout : List LayoutEntry} :
    (∃ P, makeProfile V N table layout = .ok P) ↔
      (2 ≤ N ∧ N ≤ 0x20)
        ∧ (∀ a, 1 ≤ a → a < N → ∃ row, table.lookup a = some row ∧ 4 ≤ row.width ∧ row.width ≤ 22)
        ∧ layoutWf layout = true := by
  constructor
  · rintro ⟨P, h⟩
    obtain ⟨hN, hlayout, rows, hcollect, -⟩ := makeProfile_eq_ok_iff.1 h
    exact ⟨hN, fun a hpos hlt => exists_collectRows_iff.1 ⟨rows, hcollect⟩ a hpos (by omega), hlayout⟩
  · rintro ⟨hN, htable, hlayout⟩
    obtain ⟨rows, hcollect⟩ := (exists_collectRows_iff (a := 1) (n := N - 1)).2 fun a hpos hlt =>
      htable a hpos (by omega)
    exact ⟨_, makeProfile_eq_ok_iff.2 ⟨hN, hlayout, rows, hcollect, rfl⟩⟩

end

/-- Settles O4: the profile built, and the conditions with WF4 spelt out (layoutWf_iff). -/
theorem makeProfileAcceptsExactlyWellFormed : Obligations.MakeProfileAcceptsExactlyWellFormed := by
  intro V N table layout
  refine ⟨fun P => profile_of_makeProfile, ?_⟩
  rw [exists_makeProfile_iff, layoutWf_iff, and_assoc]

end Sys2Proof.Proofs

namespace Sys2Proof.Proofs

open Sys2Proof.Machine

/-! ## The byte codec, byte by byte (spec/41_byte_codec.md R100 to R103) -/

/-- Settles O8: the byte count is the rounded-up quotient, and its range is that of register widths. -/
theorem bytesNeededIsCeiling : Obligations.BytesNeededIsCeiling := by
  intro w
  refine ⟨le_eight_mul_bytesNeeded w, ?_, fun hlow hhigh => ?_⟩
  · unfold bytesNeeded
    omega
  · have hrange := bytesNeeded_range ⟨hlow, hhigh⟩
    omega

/-- R101: the head is the byte of the highest weight, and the tail encodes the lower places. -/
theorem encodeNat_getElem? (t : Nat) {n i : Nat} (hi : i < n) :
    (encodeNat t n)[i]? = some (BitVec.ofNat 8 (t / 256 ^ (n - 1 - i))) := by
  induction n generalizing i with
  | zero => cases hi
  | succ n ih =>
    cases i with
    | zero =>
      have hplace : 2 ^ (8 * n) = 256 ^ n := Nat.pow_mul 2 8 n
      simp [encodeNat, Nat.shiftRight_eq_div_pow, hplace]
    | succ i =>
      have hweight : n + 1 - 1 - (i + 1) = n - 1 - i := by omega
      rw [encodeNat, List.getElem?_cons_succ, ih (Nat.lt_of_succ_lt_succ hi), hweight]

/-- Settles O9: encode is encodeNat of the reduced integer. -/
theorem encodeIsBigEndianTruncation : Obligations.EncodeIsBigEndianTruncation :=
  fun v n => ⟨encode_length v n, fun _ hi => encodeNat_getElem? _ hi⟩

/-- R102: the fold is the weighted sum of the bytes. -/
theorem decodeBE_eq_sum (bs : List Byte) :
    decodeBE bs = ∑ i : Fin bs.length, (bs.get i).toNat * 256 ^ (bs.length - 1 - i.val) := by
  induction bs with
  | nil => rfl
  | cons b bs ih =>
    have hweight : ∀ i : Fin bs.length, bs.length - (i.val + 1) = bs.length - 1 - i.val := by omega
    rw [decodeBE_cons, ih]
    simp [Fin.sum_univ_succ, hweight]

/-- Settles O10: the weighted sum, below its bound by decodeBE_lt. -/
theorem decodeIsBigEndianSum : Obligations.DecodeIsBigEndianSum := by
  intro bs
  have hplace : 2 ^ (8 * bs.length) = 256 ^ bs.length := Nat.pow_mul 2 8 bs.length
  exact ⟨decodeBE_eq_sum bs, hplace ▸ decodeBE_lt bs⟩

/-- R103, law 3, for every width: the bytes of a register hold all of its bits. -/
theorem decodeBE_encode_emod_width (v : Int) (w : Nat) :
    (decodeBE (Machine.encode v (bytesNeeded w)) : Int) % 2 ^ w = v % 2 ^ w := by
  rw [decodeBE_encode, Int.emod_emod_of_dvd v (pow_dvd_pow 2 (le_eight_mul_bytesNeeded w))]

/-- R103, law 4: overflow is silent. -/
theorem encode_add_mul (v k : Int) (n : Nat) : Machine.encode (v + k * 2 ^ (8 * n)) n = Machine.encode v n := by
  rw [Machine.encode, Int.add_mul_emod_self_right, Machine.encode]

/-- Settles O11: the four laws, one lemma each. -/
theorem codecRoundTripLaws : Obligations.CodecRoundTripLaws :=
  ⟨decodeBE_encode, encode_decodeBE, fun _ _ w v _ _ => decodeBE_encode_emod_width v w,
    fun v k n => (encode_add_mul v k n).symm⟩

end Sys2Proof.Proofs

namespace Sys2Proof.Proofs

open Sys2Proof.Machine Sys2Proof.Safety

/-! ## Register frames and refused addresses (spec/42_register_access.md R120 to R124) -/

/-- Settles O17: the frames of setParam and getParam, and the masked value read back from its bytes. -/
theorem writtenBytesReadBackMasked : Obligations.WrittenBytesReadBackMasked := by
  intro P O a w v _ hw
  have hback := decodeBE_encode_masked w v
  have hlt : (decodeBE (Machine.encode (v % 2 ^ w) (bytesNeeded w)) : Int) < 2 ^ w :=
    hback.trans_lt (Int.emod_lt_of_pos v (by positivity))
  exact ⟨_, _, setParamFrame_of_width hw v, getParamFrame_of_width hw O, encode_length _ _, rfl, rfl, hback,
    mod_cast hlt⟩

/-- An operation the encoder refuses ends in that error at once, whoever holds the lock (R183, R221). -/
theorem exec_of_encodeOp_error {s : State} {i : Instr} {e : TxError}
    (h : encodeOp s.profile s.opcodes i = .error e) :
    exec i s = .next { s with results := s.results ++ [(s.issuer, .err e)] } := by
  rw [exec_eq_submit, h]
  rfl

/-- Handing over a frame returns no result: the frame takes the lock or waits for it (R224). -/
theorem exec_results_of_encodeOp_ok {s : State} {i : Instr} {f : Frame} (h : encodeOp s.profile s.opcodes i = .ok f) :
    ∃ t, exec i s = .next t ∧ t.results = s.results := by
  refine ⟨_, exec_eq_submit i s, ?_⟩
  rw [h]
  obtain ⟨e, herror, -⟩ | ⟨g, -, -, hopen⟩ | ⟨g, c, -, -, hwait⟩ := submit_cases (.ok f) s
  · cases herror
  · simp [hopen]
  · simp [hwait]

section
variable {P : Profile} {a : Nat} (v : Int) (O : OpcodeSet)

theorem setParam_refused (h : ¬ valid P a = true) : encodeOp P O (.setParam a v) = .error (.invalidRegister a) := by
  simp [encodeOp, setParamFrame, width_of_not_valid h]

theorem getParam_refused (h : ¬ valid P a = true) : encodeOp P O (.getParam a) = .error (.invalidRegister a) := by
  simp [encodeOp, getParamFrame, width_of_not_valid h]

end

/-- Settles O32: the encoder refuses both operations by the address; of a valid one, which has a width (WF2), it makes a
frame. -/
theorem invalidAddressRefusedBeforeAnyExchange : Obligations.InvalidAddressRefusedBeforeAnyExchange := by
  intro s a v hconf i hi
  have hP := ((configWf_iff _ _).1 hconf).1
  refine ⟨fun hinvalid => exec_of_encodeOp_error ?_, fun hvalid => ?_⟩
  · have hnot : ¬ valid s.profile a = true := by simp [hinvalid]
    obtain rfl | rfl := hi
    · exact setParam_refused v s.opcodes hnot
    · exact getParam_refused s.opcodes hnot
  · obtain ⟨w, hw⟩ := exists_width_of_valid hP hvalid
    obtain rfl | rfl := hi
    · exact exec_results_of_encodeOp_ok (setParamFrame_of_width hw v)
    · exact exec_results_of_encodeOp_ok (getParamFrame_of_width hw s.opcodes)

/-! ## A frame that every primitive of the transport completes (spec/45_transaction.md R181, R182) -/

/-- `s` with caller `c` in the open window of frame `f`, `n` exchanges completed, of which the reads gave `rs`, and
`answers` the transport's next. -/
def inWindow (c : Caller) (f : Frame) (n : Nat) (rs : List Byte) (answers : List Answer) (s : State) : State :=
  { s with
    owner := some c, phase := .active f, window := .opened, pos := n, rx := rs, trace := s.trace ++ windowEvents f n rs,
    answers := answers }

section
variable (c : Caller) {f : Frame} {n : Nat} {b : Byte} {rs : List Byte} {more : List Answer} (s : State)

/-- An answered step in the open window is the effect of the next exchange. -/
theorem advance_inWindow :
    advance (inWindow c f n rs (.ok b :: more) s)
      = primitiveOk (nextExchange f n) b (record (okEvent (nextExchange f n) b) (inWindow c f n rs more s)) :=
  advance_of_answers (s := inWindow c f n rs (.ok b :: more) s) rfl rfl

theorem nextExchange_sends (h : n < 1 + f.args.length) : ∃ d, nextExchange f n = .txByte d := by
  obtain ⟨-, hx⟩ | ⟨d, -, -, hx⟩ | ⟨hlow, -, -⟩ | ⟨-, hhigh, -⟩ := nextExchange_cases f n
  · exact ⟨f.op, hx⟩
  · exact ⟨d, hx⟩
  · omega
  · simp only [exchangeCount] at hhigh
    omega

theorem nextExchange_reads (hlow : 1 + f.args.length ≤ n) (hhigh : n < exchangeCount f) :
    nextExchange f n = .rxByte := by
  obtain ⟨hzero, -⟩ | ⟨d, -, harg, -⟩ | ⟨-, -, hx⟩ | ⟨-, hover, -⟩ := nextExchange_cases f n
  · omega
  · have hlt := (List.getElem?_eq_some_iff.1 harg).1
    omega
  · exact hx
  · omega

theorem advance_inWindow_sends (h : n < 1 + f.args.length) :
    advance (inWindow c f n [] (.ok b :: more) s) = inWindow c f (n + 1) [] more s := by
  obtain ⟨d, hnext⟩ := nextExchange_sends h
  rw [advance_inWindow, hnext]
  simp [inWindow, primitiveOk, countExchange, record, okEvent, windowEvents_tx (sentBytes_of_nextExchange hnext)]

theorem advance_inWindow_reads (hlow : 1 + f.args.length ≤ n) (hhigh : n < exchangeCount f) :
    advance (inWindow c f n rs (.ok b :: more) s) = inWindow c f (n + 1) (rs ++ [b]) more s := by
  rw [advance_inWindow, nextExchange_reads hlow hhigh]
  simp [inWindow, primitiveOk, receive, record, okEvent, windowEvents_rx hlow]

theorem advances_inWindow_sends (k : Nat) (h : n + k ≤ 1 + f.args.length) :
    advances k (inWindow c f n [] (List.replicate k (.ok b) ++ more) s) = inWindow c f (n + k) [] more s := by
  induction k generalizing n with
  | zero => rfl
  | succ k ih =>
    rw [List.replicate_succ, List.cons_append, advances, advance_inWindow_sends c s (by omega), ih (by omega)]
    congr 1
    omega

theorem advances_inWindow_reads (bs : List Byte) (hlow : 1 + f.args.length ≤ n)
    (hhigh : n + bs.length ≤ exchangeCount f) :
    advances bs.length (inWindow c f n rs (bs.map .ok ++ more) s) = inWindow c f (n + bs.length) (rs ++ bs) more s := by
  induction bs generalizing n rs with
  | nil => simp [advances]
  | cons b bs ih =>
    simp only [List.length_cons] at hhigh
    rw [List.map_cons, List.cons_append, List.length_cons, advances, advance_inWindow_reads c s hlow (by omega),
      ih (by omega) (by omega), List.append_assoc, List.singleton_append]
    congr 1
    omega

/-- After the last exchange, FrameEnd puts the whole frame on the wire and returns the decoded response (R203). -/
theorem advance_inWindow_closes :
    advance (inWindow c f (exchangeCount f) rs (.ok b :: more) s)
      = settled c ⟨frameEvents f rs, decodeResponse rs, more⟩ s := by
  rw [advance_inWindow, nextExchange_eq_frameEnd_iff.mpr le_rfl, primitiveOk_frameEnd_of_opened (by rfl),
    finish_of_owner (c := c) (by rfl), frameEvents_eq_windowEvents]
  simp [inWindow, settled, deliver, release, record, okEvent]

/-- FrameBegin opens the window (R180). -/
theorem advance_locked (h : s.answers = .ok b :: more) : advance (locked c f s) = inWindow c f 0 [] more s :=
  advance_of_answers (s := locked c f s) rfl h

theorem okAnswers_append (f : Frame) (b : Byte) (rs : List Byte) (more : List Answer) :
    okAnswers f b rs ++ more
      = .ok b :: (List.replicate (1 + f.args.length) (.ok b) ++ (rs.map .ok ++ .ok b :: more)) := by
  have hcount : 2 + f.args.length = 1 + f.args.length + 1 := by omega
  simp [okAnswers, hcount, List.replicate_succ]

/-- Where every primitive returns ok, FrameBegin, a frame's exchanges and FrameEnd lead to its result (R182). -/
theorem advances_locked (hlength : rs.length = f.rspLen) (h : s.answers = okAnswers f b rs ++ more) :
    advances (exchangeCount f + 2) (locked c f s) = settled c ⟨frameEvents f rs, decodeResponse rs, more⟩ s := by
  have hexchanges : exchangeCount f = 0 + (1 + f.args.length) + rs.length := by simp [exchangeCount, hlength]
  have hcount : exchangeCount f + 2 = 1 + ((1 + f.args.length) + (rs.length + 1)) := by omega
  have hbegin : advances 1 (locked c f s) = inWindow c f 0 [] _ s :=
    advance_locked c s (h.trans (okAnswers_append f b rs more))
  rw [hcount, advances_add, hbegin, advances_add, advances_inWindow_sends c s _ (by omega), advances_add,
    advances_inWindow_reads c s rs (by omega) hexchanges.ge, ← hexchanges]
  exact advance_inWindow_closes c s

end

/-- An operation with a frame, the lock free, is that frame, with the result its response decodes to. -/
theorem runsFrame_of_encodeOp {s : State} {i : Instr} {f : Frame} {result : List Byte → TransactionResult}
    (hfree : s.owner = none) (hframe : encodeOp s.profile s.opcodes i = .ok f)
    (hresult : ∀ rs, rs.length = f.rspLen → decodeResponse rs = result rs) : RunsFrame i f result s := by
  refine ⟨?_, fun x htransaction => reaches_settled_of_transaction s.issuer htransaction,
    fun b rs more hlength hanswers => ?_⟩
  · rw [exec_eq_submit, hframe]
    exact congrArg Host.Outcome.next (transact_of_free hfree f)
  · rw [← hresult rs hlength]
    exact advances_locked s.issuer s hlength hanswers

/-! ## setParam and getParam as their frames (spec/42_register_access.md R120, R121) -/

/-- Settles O28: setParam is its frame, whose empty response is Unit (R200), or it is refused by its address. -/
theorem setParamSendsMaskedValue : Obligations.SetParamSendsMaskedValue := by
  intro s a v _ hfree
  refine ⟨fun w hw => runsFrame_of_encodeOp hfree (setParamFrame_of_width hw v) fun rs hnone => ?_,
    fun hinvalid => exec_of_encodeOp_error (setParam_refused v s.opcodes (by simp [hinvalid]))⟩
  obtain rfl : rs = [] := List.length_eq_zero_iff.1 hnone
  rfl

/-- A register's response bytes are their value, unmasked (R200): there are one to three of them. -/
theorem decodeResponse_of_register {P : Profile} {a w : Nat} (hP : profileWf P = true) (hw : width P a = .ok w)
    {rs : List Byte} (hlength : rs.length = bytesNeeded w) : decodeResponse rs = .value (decodeBE rs) := by
  obtain ⟨hsome, hthree⟩ := bytesNeeded_range (width_range hP hw)
  obtain ⟨rfl, -⟩ | ⟨-, hvalue⟩ := decodeResponse_of_le (hlength.trans_le hthree)
  · simp only [List.length_nil] at hlength
    omega
  · exact hvalue

/-- The opcode of getParam under O1 (R62). -/
theorem getOpcode_eq {P : Profile} {O : OpcodeSet} (hconf : configWf P O = true) (a : Nat) :
    getOpcode O a = 0x20#8 ||| BitVec.ofNat 8 a := by
  rw [getOpcode, (opcodesOk hconf).getFlag]

/-- Settles O29: getParam is its frame, whose response bytes are a register's, or it is refused by its address. -/
theorem getParamReadsRegister : Obligations.GetParamReadsRegister := by
  intro s a hconf hfree
  have hP := ((configWf_iff _ _).1 hconf).1
  refine ⟨fun w hw => ?_, fun hinvalid => exec_of_encodeOp_error (getParam_refused s.opcodes (by simp [hinvalid]))⟩
  rw [← getOpcode_eq hconf a]
  exact runsFrame_of_encodeOp hfree (getParamFrame_of_width hw s.opcodes) fun rs => decodeResponse_of_register hP hw

end Sys2Proof.Proofs

namespace Sys2Proof.Proofs

open Sys2Proof.Machine Sys2Proof.Safety

/-! ## The motion commands (spec/43_motion.md R140 to R144) -/

theorem signMag_neg_bytes (O : OpcodeSet) (s : Int) : (signMag O (-s)).2 = (signMag O s).2 := by
  simp [signMag]

/-- R66: zero is non-negative, and negation turns every other sign. -/
theorem dirBit_neg (O : OpcodeSet) {s : Int} (hs : s ≠ 0) : dirBit O (-s) = !dirBit O s := by
  obtain hneg | hpos := lt_or_gt_of_ne hs
  · simp [dirBit, hneg.le, hneg.not_ge]
  · simp [dirBit, hpos.le, hpos.not_ge]

theorem dirBit_neg_ne_iff (O : OpcodeSet) (s : Int) : dirBit O (-s) ≠ dirBit O s ↔ s ≠ 0 := by
  refine ⟨?_, fun hs => ?_⟩
  · rintro hne rfl
    exact hne rfl
  · rw [dirBit_neg O hs]
    exact Bool.not_ne_self _

/-- Settles O14: the direction bit by the sign, and the magnitude bytes of the absolute value, which negation keeps. -/
theorem signMagnitudeOfEveryInteger : Obligations.SignMagnitudeOfEveryInteger := fun O s =>
  ⟨fun hnonneg => if_pos hnonneg, fun hneg => if_neg hneg.not_ge, encode_length _ motionBytes, decodeBE_magnitude s,
    signMag_neg_bytes O s, dirBit_neg_ne_iff O s⟩

/-- O2, R65: the two opcodes of a motion command differ in exactly the bit DIR_MASK. -/
theorem motionOpcode_xor_motionOpcode_not {O : OpcodeSet} {base : Byte} (hbase : base &&& O.dirMask = 0#8) (d : Bool) :
    motionOpcode O base d ^^^ motionOpcode O base (!d) = O.dirMask := by
  have hset : base ||| O.dirMask = base ^^^ O.dirMask := by
    ext i hi
    have hbit : (base &&& O.dirMask)[i] = (0#8)[i] := by rw [hbase]
    revert hbit
    cases hb : base[i] <;> simp [hb]
  have hclear : base ^^^ (base ^^^ O.dirMask) = O.dirMask := by rw [← BitVec.xor_assoc]; simp
  cases d with
  | false => simp [motionOpcode, hset, hclear]
  | true => simp [motionOpcode, hset, BitVec.xor_comm _ base, hclear]

/-- R144 for the frames of a motion command: one argument, opposite directions. -/
theorem motionFrame_neg {O : OpcodeSet} {base : Byte} (hbase : base &&& O.dirMask = 0#8) {s : Int} (hs : s ≠ 0) :
    (motionFrame O base s).args = (motionFrame O base (-s)).args
      ∧ (motionFrame O base s).op ^^^ (motionFrame O base (-s)).op = O.dirMask := by
  refine ⟨(signMag_neg_bytes O s).symm, ?_⟩
  have hdir : (signMag O (-s)).1 = !(signMag O s).1 := dirBit_neg O hs
  simp only [motionFrame, hdir]
  exact motionOpcode_xor_motionOpcode_not hbase _

/-- Settles O15: the frames of opposite arguments, for the two base opcodes, whose DIR_MASK bit is clear (O2). -/
theorem oppositeMotionsDifferInDirectionBit : Obligations.OppositeMotionsDifferInDirectionBit := by
  rintro P O s hconf hs make (rfl | rfl)
  · obtain ⟨hargs, hop⟩ := motionFrame_neg (opcodesOk hconf).runBase hs
    exact ⟨_, _, rfl, rfl, hargs, hop, rfl, rfl⟩
  · obtain ⟨hargs, hop⟩ := motionFrame_neg (opcodesOk hconf).moveBase hs
    exact ⟨_, _, rfl, rfl, hargs, hop, rfl, rfl⟩

/-- R66: the direction bit is set where the sign is the one DIR_NONNEG says it is set for. -/
theorem dirBit_eq_true_iff (O : OpcodeSet) (v : Int) : dirBit O v = true ↔ (0 ≤ v ↔ O.dirNonneg = true) := by
  by_cases hnonneg : 0 ≤ v <;> simp [dirBit, hnonneg]

/-- R141, R142: the frame of a motion command spelt out. -/
theorem motionFrame_eq (O : OpcodeSet) (base : Byte) (v : Int) :
    motionFrame O base v
      = ⟨base ||| (if (0 ≤ v ↔ O.dirNonneg = true) then O.dirMask else 0#8), Machine.encode (|v|) 3, 0⟩ := by
  simp only [motionFrame, signMag, motionOpcode, dirBit_eq_true_iff, Int.natCast_natAbs, motionBytes]

/-- An operation with a motion frame is that frame, and its empty response is Unit (R200). -/
theorem runsFrame_of_motionFrame {s : State} {i : Instr} {base : Byte} {v : Int} (hfree : s.owner = none)
    (hframe : encodeOp s.profile s.opcodes i = .ok (motionFrame s.opcodes base v)) :
    RunsFrame i
      ⟨base ||| (if (0 ≤ v ↔ s.opcodes.dirNonneg = true) then s.opcodes.dirMask else 0#8), Machine.encode (|v|) 3, 0⟩
      (fun _ => .unit) s := by
  rw [motionFrame_eq] at hframe
  refine runsFrame_of_encodeOp hfree hframe fun rs hnone => ?_
  obtain rfl : rs = [] := List.length_eq_zero_iff.1 hnone
  rfl

/-- Settles O30: run is the motion frame of its base opcode, whatever P. -/
theorem runSendsSignAndMagnitude : Obligations.RunSendsSignAndMagnitude :=
  fun _ _ hfree => runsFrame_of_motionFrame hfree rfl

/-- Settles O31: move is the motion frame of its base opcode. -/
theorem moveSendsSignAndMagnitude : Obligations.MoveSendsSignAndMagnitude :=
  fun _ _ hfree => runsFrame_of_motionFrame hfree rfl

end Sys2Proof.Proofs

namespace Sys2Proof.Proofs

open Sys2Proof.Machine Sys2Proof.Safety

/-! ## The fixed commands and status reading (spec/44_fixed_commands.md R160 to R167) -/

/-- R61 format Z: an operation with a fixed frame is its one opcode byte, and its empty response is Unit (R200). -/
theorem runsFrame_of_fixedFrame {s : State} {i : Instr} {op : Byte} (hfree : s.owner = none)
    (hframe : encodeOp s.profile s.opcodes i = .ok (fixedFrame op)) : RunsFrame i ⟨op, [], 0⟩ (fun _ => .unit) s := by
  refine runsFrame_of_encodeOp hfree hframe fun rs hnone => ?_
  obtain rfl : rs = [] := List.length_eq_zero_iff.1 hnone
  rfl

/-- Settles O24: nop is the fixed frame of O's nop, which is 0x00 under O1. -/
theorem nopSendsItsOpcode : Obligations.NopSendsItsOpcode := by
  intro s hconf hfree
  have hnop : s.opcodes.nop = 0x00#8 := (opcodesOk hconf).nop
  rw [← hnop]
  exact runsFrame_of_fixedFrame hfree rfl

/-- Settles O25: the four are fixed frames, each of its own opcode. -/
theorem stopsAndHiZSendTheirOpcodes : Obligations.StopsAndHiZSendTheirOpcodes := fun _ hfree =>
  ⟨runsFrame_of_fixedFrame hfree rfl, runsFrame_of_fixedFrame hfree rfl, runsFrame_of_fixedFrame hfree rfl,
    runsFrame_of_fixedFrame hfree rfl⟩

/-- Settles O26: resetDevice is a fixed frame; what it leaves is what `settled` says of every frame, P and O untouched. -/
theorem resetDeviceSendsItsOpcode : Obligations.ResetDeviceSendsItsOpcode := fun _ hfree =>
  runsFrame_of_fixedFrame hfree rfl

/-- R166, R200: the two bytes of a status response are a value, not Unit. -/
theorem decodeResponse_of_status {rs : List Byte} (hlength : rs.length = statusBytes) :
    decodeResponse rs = .value (decodeBE rs) := by
  obtain ⟨rfl, -⟩ | ⟨-, hvalue⟩ := decodeResponse_of_le (hlength.trans_le (by decide))
  · cases hlength
  · exact hvalue

/-- Settles O27: getStatus is its frame, whatever P, and its two response bytes are their unsigned value. -/
theorem getStatusReadsTwoBytes : Obligations.GetStatusReadsTwoBytes := fun _ hfree =>
  runsFrame_of_encodeOp hfree rfl fun _ => decodeResponse_of_status

/-- R167, U8: a name of no layout entry is refused by name. -/
theorem statusFlag_of_unnamed {P : Profile} {name : String} (word : Nat) (h : ∀ d ∈ P.layout, entryName d ≠ name) :
    statusFlag P word name = .error (.noSuchStatus name) := by
  have hfind : P.layout.find? (fun d => entryName d == name) = none := by simpa using h
  rw [statusFlag, hfind]

/-- R167, log 3: a name reads the first layout entry that has it. -/
theorem statusFlag_of_first {P : Profile} {before after : List LayoutEntry} {e : LayoutEntry} (word : Nat)
    (hlayout : P.layout = before ++ e :: after) (hfirst : ∀ d ∈ before, entryName d ≠ entryName e) :
    statusFlag P word (entryName e) = .ok (readEntry word e) := by
  have hfind : P.layout.find? (fun d => entryName d == entryName e) = some e :=
    List.find?_eq_some_iff_append.2 ⟨by simp, before, after, hlayout, by simpa using hfirst⟩
  rw [statusFlag, hfind]

/-- R29: the reading of a flag asserted at 1. -/
theorem readEntry_high (word : Nat) (name : String) (bit : Nat) :
    readEntry word (.flag name bit .high) = .asserted (word.testBit bit) :=
  congrArg Reading.asserted (bitField_self_beq_one word bit)

/-- R29: the reading of a flag asserted at 0. -/
theorem readEntry_low (word : Nat) (name : String) (bit : Nat) :
    readEntry word (.flag name bit .low) = .asserted (!word.testBit bit) :=
  congrArg Reading.asserted (bitField_self_beq_zero word bit)

/-- Settles O54: a name of no entry is refused; the first entry of its name is read, by its kind and polarity. -/
theorem statusFlagFollowsEntryPolarity : Obligations.StatusFlagFollowsEntryPolarity := by
  refine fun P word => ⟨fun name => statusFlag_of_unnamed word, fun before after e hlayout hfirst => ?_⟩
  have hread := statusFlag_of_first word hlayout hfirst
  refine ⟨?high, ?low, ?field⟩
  case high =>
    rintro name bit rfl
    rwa [readEntry_high] at hread
  case low =>
    rintro name bit rfl
    rwa [readEntry_low] at hread
  case field =>
    rintro name hi lo values rfl
    exact hread

end Sys2Proof.Proofs

namespace Sys2Proof.Proofs

open Sys2Proof.Machine Sys2Proof.Safety

/-! ## The sequencer and the transaction of R181 (spec/45_transaction.md) -/

/-- Settles O35: the sequencer reaches the settled state by FrameBegin, the exchanges and FrameEnd. -/
theorem sequencerRefinesTransaction : Obligations.SequencerRefinesTransaction := fun c _ _ _ htransaction =>
  reaches_settled_of_transaction c htransaction

theorem exchangePrims_eq (f : Frame) :
    exchangePrims f = (sentBytes f).map .txByte ++ List.replicate f.rspLen .rxByte := rfl

/-- Bytes whose sending returns ok are events of the exchange, and what follows decides its reads and its failure. -/
theorem exchange_sends {answers : List Answer} {ps : List Prim} {y : Exchanged} (h : exchange answers ps = some y)
    (b : Byte) (bs : List Byte) :
    exchange (List.replicate bs.length (.ok b) ++ answers) (bs.map .txByte ++ ps)
      = some { y with events := bs.map .tx ++ y.events } := by
  induction bs with
  | nil => simpa using h
  | cons c bs ih => simp [List.replicate_succ, exchange, ih, okEvent]

/-- Reads that all return ok give their bytes, in their order. -/
theorem exchange_reads (answers : List Answer) (rs : List Byte) :
    exchange (rs.map .ok ++ answers) (List.replicate rs.length .rxByte) = some ⟨rs.map .rx, rs, none, answers⟩ := by
  induction rs with
  | nil => simp [exchange]
  | cons r rs ih => simp [List.replicate_succ, exchange, ih, okEvent]

/-- A single primitive that returns ok. -/
theorem exchange_singleton_ok {p : Prim} (hread : p ≠ .rxByte) (b : Byte) (answers : List Answer) :
    exchange (.ok b :: answers) [p] = some ⟨[okEvent p b], [], none, answers⟩ := by
  simp [exchange, hread]

/-- All exchanges of a frame return ok: its bytes are sent, then its response is read (R181). -/
theorem exchange_exchangePrims {f : Frame} {rs : List Byte} (hlength : rs.length = f.rspLen) (b : Byte)
    (answers : List Answer) :
    exchange (List.replicate (1 + f.args.length) (.ok b) ++ (rs.map .ok ++ answers)) (exchangePrims f)
      = some ⟨(sentBytes f).map .tx ++ rs.map .rx, rs, none, answers⟩ := by
  have hsent : 1 + f.args.length = (sentBytes f).length := by simp [sentBytes, Nat.add_comm]
  rw [exchangePrims_eq, ← hlength, hsent]
  exact exchange_sends (exchange_reads answers rs) b (sentBytes f)

/-- A transaction whose every primitive returns ok is the whole frame and its decoded response (R182, R203). -/
theorem transaction_okAnswers {f : Frame} {rs : List Byte} (hlength : rs.length = f.rspLen) (b : Byte)
    (more : List Answer) :
    transaction f (okAnswers f b rs ++ more) = some ⟨frameEvents f rs, decodeResponse rs, more⟩ := by
  have hbegin := fun answers => exchange_singleton_ok (p := .frameBegin) (by decide) b answers
  have hend := exchange_singleton_ok (p := .frameEnd) (by decide) b more
  rw [okAnswers_append]
  simp only [transaction, hbegin, exchange_exchangePrims hlength, hend]
  simp [okEvent, resultOf, frameEvents, sentBytes]

/-- Settles O36: the completed transaction, and the counts of the frame's events by their kind. -/
theorem completedTransactionCounts : Obligations.CompletedTransactionCounts := by
  intro f b rs more hlength
  refine ⟨transaction_okAnswers hlength b more, ?sent, ?read, ?begins, ?closes, ?count⟩
  case sent => simp [frameEvents]
  case read => simp [frameEvents]
  case begins => simp [frameEvents]
  case closes => simp [frameEvents, List.countP_eq_zero.2]
  case count =>
    simp only [frameEvents, exchangeCount, List.length_cons, List.length_append, List.length_map, List.length_nil,
      hlength]
    omega

/-! ## Failures and unanswered primitives (R185, R188) -/

/-- A failed exchange in the open window completes nothing, and the release FrameEnd is next. -/
theorem advance_of_exchange_failed {s : State} {f : Frame} {e : Payload} {more : List Answer}
    (hactive : s.phase = .active f) (hopened : s.window = .opened) (hnext : nextExchange f s.pos ≠ .frameEnd)
    (hanswers : s.answers = .fail e :: more) :
    advance s = { s with
      window := .failing e, trace := s.trace ++ [.failed (nextExchange f s.pos) e], answers := more } := by
  rw [advance_of_answers hactive hanswers, nextPrim_of_opened f hopened]
  exact primitiveFailed_of_exchange (nextExchange_ne_frameBegin f s.pos) hnext e _

/-- Whatever the release FrameEnd answers, the transaction ends with the failure before it (D18). -/
theorem advance_of_release_answered {s : State} {f : Frame} {c : Caller} {first : Payload} {a : Answer}
    {more : List Answer} (hactive : s.phase = .active f) (howner : s.owner = some c)
    (hfailing : s.window = .failing first) (hanswers : s.answers = a :: more) (hanswered : a ≠ .notYet) :
    ∃ last, (last = .close ∨ ∃ e, a = .fail e ∧ last = .failed .frameEnd e)
      ∧ advance s = settled c ⟨[last], .err (.transportFailure first), more⟩ s := by
  rw [advance_of_answers hactive hanswers, nextPrim_of_failing f hfailing]
  cases a with
  | notYet => exact absurd rfl hanswered
  | ok b =>
    refine ⟨.close, .inl rfl, ?_⟩
    exact (primitiveOk_frameEnd_of_failing (by exact hfailing) b).trans (finish_record_eq_settled howner _ _ _)
  | fail e =>
    refine ⟨.failed .frameEnd e, .inr ⟨e, rfl, rfl⟩, ?_⟩
    exact (primitiveFailed_frameEnd_of_failing (by exact hfailing) e).trans (finish_record_eq_settled howner _ _ _)

/-- Settles O37: the failed exchange, then the release, from the state the failure leaves. -/
theorem failedExchangeReleasesAndReports : Obligations.FailedExchangeReleasesAndReports := by
  intro s f c e a more hactive howner hopened hpos hanswers hanswered
  have hnext : nextExchange f s.pos ≠ .frameEnd := mt nextExchange_eq_frameEnd_iff.mp (Nat.not_le.mpr hpos)
  have hfailed := advance_of_exchange_failed hactive hopened hnext hanswers
  refine ⟨hfailed, hnext, ?_⟩
  rw [hfailed]
  obtain ⟨last, hlast, hreleased⟩ := advance_of_release_answered (s := { s with
    window := .failing e, trace := s.trace ++ [.failed (nextExchange f s.pos) e], answers := a :: more })
    hactive howner rfl rfl hanswered
  exact ⟨last, hlast, by simp [hreleased, settled]⟩

/-- Settles O38: the answer that the primitive has not returned is used up, and has no effect. -/
theorem unansweredPrimitiveLeavesFrameOpen : Obligations.UnansweredPrimitiveLeavesFrameOpen :=
  fun _ _ _ hactive hanswers => advance_of_answers hactive hanswers

/-! ## What one step adds to the trace and to the results (R189) -/

theorem submit_trace (r : Except TxError Frame) (s : State) : (submit r s).trace = s.trace := by
  obtain ⟨e, -, h⟩ | ⟨f, -, -, h⟩ | ⟨f, c, -, -, h⟩ := submit_cases r s <;> simp [h]

/-- Handing over returns one result where the encoder refused the operation, and none where it made a frame (R183). -/
theorem submit_results (r : Except TxError Frame) (s : State) :
    (submit r s).results = s.results ∨ ∃ q, (submit r s).results = s.results ++ [q] := by
  obtain ⟨e, -, h⟩ | ⟨f, -, -, h⟩ | ⟨f, c, -, -, h⟩ := submit_cases r s
  · exact .inr ⟨_, by rw [h, deliver_results]⟩
  · exact .inl (by rw [h, openTransaction_results])
  · exact .inl (by rw [h, waitForLock_results])

/-- Handing over leaves a held lock and the frame in flight as they are (R186). -/
theorem submit_of_held {s : State} {c : Caller} (hheld : s.owner = some c) (r : Except TxError Frame) :
    (submit r s).owner = some c ∧ (submit r s).phase = s.phase := by
  obtain ⟨e, -, h⟩ | ⟨f, -, hfree, -⟩ | ⟨f, d, -, -, h⟩ := submit_cases r s
  · simp [h, hheld]
  · simp [hheld] at hfree
  · simp [h, hheld]

theorem finish_ready (r : TransactionResult) (s : State) : Ready (finish r s) := by
  simp [Ready]

theorem finish_results_of_owner {s : State} {c : Caller} (howner : s.owner = some c) (r : TransactionResult) :
    (finish r s).results = s.results ++ [(c, r)] := by
  simp [finish_of_owner howner]

theorem finish_results (r : TransactionResult) (s : State) :
    (finish r s).results = s.results ∨ ∃ q, (finish r s).results = s.results ++ [q] := by
  obtain ⟨c, howner, -⟩ | ⟨-, h⟩ := finish_cases r s
  · exact .inr ⟨_, finish_results_of_owner howner r⟩
  · exact .inl (by rw [h, release_results])

/-- A primitive records one event, or none where it has not returned (R188, R189). -/
theorem PrimitiveEffect.trace_eq_or_one_more {f : Frame} {s t : State} (h : PrimitiveEffect f s t) :
    t.trace = s.trace ∨ ∃ e, t.trace = s.trace ++ [e] := by
  cases h <;> simp

/-- A primitive leaves the frame in flight, returning no result, or it ends the transaction: with some result, the event
recorded. -/
theorem PrimitiveEffect.continues_or_finishes {f : Frame} {s t : State} (h : PrimitiveEffect f s t) :
    (t.owner = s.owner ∧ t.phase = s.phase ∧ t.results = s.results) ∨ ∃ r e, t = finish r (record e s) := by
  cases h with
  | unanswered => exact .inl ⟨rfl, rfl, rfl⟩
  | begun _ => exact .inl ⟨rfl, rfl, rfl⟩
  | sent _ _ _ => exact .inl ⟨rfl, rfl, rfl⟩
  | received _ _ _ => exact .inl ⟨rfl, rfl, rfl⟩
  | exchangeFailed _ _ _ => exact .inl ⟨rfl, rfl, rfl⟩
  | unopened _ _ => exact .inr ⟨_, _, rfl⟩
  | closed _ _ => exact .inr ⟨_, _, rfl⟩
  | unclosed _ _ _ => exact .inr ⟨_, _, rfl⟩
  | released _ _ _ _ => exact .inr ⟨_, _, rfl⟩

/-- Settles O39: by what a step can be (step_next_cases); only a primitive records an event, and each kind of step returns at
most one result. -/
theorem onePrimitivePerStep : Obligations.OnePrimitivePerStep := by
  intro s t hstep
  obtain ⟨-, rfl | ⟨k, r, i, -, -, -, rfl⟩ | ⟨k, w, -, -, rfl⟩ | ⟨f, hactive, rfl⟩⟩ := step_next_cases hstep
  · exact ⟨.inl rfl, .inl rfl⟩
  · exact ⟨.inl (by simp [submit_trace]), by simpa using submit_results _ (takeRequest k r (afterChoice s))⟩
  · exact ⟨.inl (by simp), .inl (by simp)⟩
  · have heffect : PrimitiveEffect f (dropAnswer (afterChoice s)) (advance (afterChoice s)) :=
      advance_primitiveEffect (by simpa using hactive)
    constructor
    · obtain hsame | ⟨e, hmore⟩ := heffect.trace_eq_or_one_more
      · exact .inl (by simpa using hsame)
      · exact .inr ⟨e, f, hactive, by simpa using hmore⟩
    · obtain ⟨-, -, hsame⟩ | ⟨r, e, hended⟩ := heffect.continues_or_finishes
      · exact .inl (by simpa using hsame)
      · rw [hended]
        simpa using finish_results r (record e (dropAnswer (afterChoice s)))

/-- Settles O41: by what a step can be (step_next_cases); a held lock admits no grant, and a primitive that ends the frame
returns its owner's result. -/
theorem frameInFlightRunsToItsResult : Obligations.FrameInFlightRunsToItsResult := by
  intro s t c f hstep howner hactive
  obtain ⟨-, rfl | ⟨k, r, i, -, -, -, rfl⟩ | ⟨k, w, hfree, -, rfl⟩ | ⟨g, hg, rfl⟩⟩ := step_next_cases hstep
  · exact .inl ⟨howner, hactive⟩
  · have hheld : (takeRequest k r (afterChoice s)).owner = some c := by simpa using howner
    exact .inl (by simpa [hactive] using submit_of_held hheld (encodeOp s.profile s.opcodes i))
  · simp [howner] at hfree
  · have heffect : PrimitiveEffect g (dropAnswer (afterChoice s)) (advance (afterChoice s)) :=
      advance_primitiveEffect (by simpa using hg)
    obtain ⟨howner', hphase, -⟩ | ⟨r, e, hended⟩ := heffect.continues_or_finishes
    · exact .inl ⟨by simpa [howner] using howner', by simpa [hactive] using hphase⟩
    · have hheld : (record e (dropAnswer (afterChoice s))).owner = some c := by simpa using howner
      rw [hended]
      exact .inr ⟨finish_ready r _, r, by simpa using finish_results_of_owner hheld r⟩

/-! ## The lock and the order of agents (R186, D28) -/

/-- Settles O42: a grant is possible with the lock free alone (grant_mem_moves), and its state is the waiter's locked one. -/
theorem waitingCallerTakesOnlyFreeLock : Obligations.WaitingCallerTakesOnlyFreeLock := by
  intro s k w hw
  refine ⟨fun hfree => ⟨grant_mem_moves.2 ⟨hfree, (List.getElem?_eq_some_iff.1 hw).1⟩, ?_⟩,
    fun hheld hmove => hheld (grant_mem_moves.1 hmove).1⟩
  simp [runMove, grant, hw, openTransaction, dropWaiter, locked]

/-- A possible move is the one chosen under some schedule, which the choice of it turns back into the given one. -/
theorem exists_schedule_of_mem_moves {s : State} {m : Move} (hm : m ∈ moves s) :
    ∃ schedule, chosen { s with schedule := schedule } = some m
      ∧ afterChoice { s with schedule := schedule } = s := by
  cases hmoves : moves s with
  | nil => simp [hmoves] at hm
  | cons first others =>
    cases others with
    | nil =>
      obtain rfl : m = first := by simpa [hmoves] using hm
      exact ⟨s.schedule, chosen_of_single_move hmoves⟩
    | cons second others =>
      obtain ⟨k, hk, hget⟩ := List.mem_iff_getElem.1 (hmoves ▸ hm)
      have hmoves' : moves { s with schedule := k :: s.schedule } = first :: second :: others := hmoves
      refine ⟨k :: s.schedule, ?_, ?_⟩
      · simp only [chosen, hmoves', nextChoice, Nat.mod_eq_of_lt hk]
        exact List.getElem?_eq_some_iff.2 ⟨hk, hget⟩
      · simp [afterChoice, hmoves', dropChoice]

/-- Settles O43: under the schedule that chooses the move, the step carries it out from the state as it was. -/
theorem anyPossibleMoveMayBeNext : Obligations.AnyPossibleMoveMayBeNext := by
  intro s m hconf hm
  obtain ⟨schedule, hchosen, hafter⟩ := exists_schedule_of_mem_moves hm
  exact ⟨schedule, by rw [step_of_chosen (by exact hconf) hchosen, hafter]⟩

/-- Settles O33: the encoder's frame is handed over, and finds the lock held (transact_of_held). -/
theorem heldLockMakesCallerWait : Obligations.HeldLockMakesCallerWait := by
  intro s i f c hheld hframe
  rw [exec_eq_submit, hframe]
  exact congrArg Host.Outcome.next (transact_of_held hheld f)

end Sys2Proof.Proofs

namespace Sys2Proof.Proofs

open Sys2Proof.Machine Sys2Proof.Safety

/-! ## The response decoder (spec/46_response_decoder.md R200) -/

theorem decodeResponse_of_four_le {bs : List Byte} (h : 4 ≤ bs.length) :
    decodeResponse bs = .err (.unsupportedResponseWidth bs.length) := by
  have hsome : bs.length ≠ 0 := by omega
  have hlong : ¬ bs.length ≤ maxRspBytes := by simp only [maxRspBytes]; omega
  rw [decodeResponse, if_neg hsome, if_neg hlong]

/-- Settles O12: up to three bytes by decodeResponse_of_le, from four on by decodeResponse_of_four_le. -/
theorem responseDecodedByLength : Obligations.ResponseDecodedByLength := by
  intro bs
  refine ⟨fun hnone => ?_, fun hsome hshort => ?_, decodeResponse_of_four_le⟩
  · obtain rfl := List.length_eq_zero_iff.1 hnone
    rfl
  · obtain ⟨rfl, -⟩ | ⟨-, hvalue⟩ := decodeResponse_of_le hshort
    · simp at hsome
    · exact hvalue

/-! ## No UnsupportedResponseWidth is returned (R202, R222) -/

theorem decodeResponse_ne_widthError {bs : List Byte} (h : bs.length ≤ 3) (k : Nat) :
    decodeResponse bs ≠ .err (.unsupportedResponseWidth k) := by
  obtain ⟨-, hunit⟩ | ⟨-, hvalue⟩ := decodeResponse_of_le h
  · simp [hunit]
  · simp [hvalue]

/-- The encoder refuses an operation for its register address alone (R183). -/
theorem encodeOp_error {P : Profile} {O : OpcodeSet} {i : Instr} {e : TxError} (h : encodeOp P O i = .error e) :
    ∃ a, e = .invalidRegister a := by
  cases i with
  | setParam a v =>
    cases hw : width P a with
    | ok w => simp [encodeOp, setParamFrame_of_width hw] at h
    | error d => exact ⟨a, by simpa [encodeOp, setParamFrame, hw, width_error hw] using h.symm⟩
  | getParam a =>
    cases hw : width P a with
    | ok w => simp [encodeOp, getParamFrame_of_width hw] at h
    | error d => exact ⟨a, by simpa [encodeOp, getParamFrame, hw, width_error hw] using h.symm⟩
  | nop | run _ | move _ | softStop | hardStop | softHiZ | hardHiZ | resetDevice | getStatus => cases h

/-- Under the invariant a frame in flight has received at most three bytes (R32, R60). -/
theorem rx_length_le_three {s : State} {f : Frame} (hinv : Inv s) (hactive : s.phase = .active f) :
    s.rx.length ≤ 3 := by
  obtain ⟨-, hwf, hpos, hrx, -⟩ := sequencer_facts hinv hactive
  obtain ⟨-, hrsp, -⟩ := (frameWf_iff f).1 hwf
  rw [exchangeCount] at hpos
  omega

/-- From `s` to `t` no result UnsupportedResponseWidth is added to those returned. -/
def AddsNoWidthError (s t : State) : Prop :=
  ∀ c k, (c, TransactionResult.err (.unsupportedResponseWidth k)) ∈ t.results →
    (c, TransactionResult.err (.unsupportedResponseWidth k)) ∈ s.results

theorem addsNoWidthError_of_results_eq {s t : State} (h : t.results = s.results) : AddsNoWidthError s t := by
  intro c k hmem
  rwa [h] at hmem

theorem addsNoWidthError_of_append {s t : State} {c : Caller} {r : TransactionResult}
    (h : t.results = s.results ++ [(c, r)]) (hr : ∀ k, r ≠ .err (.unsupportedResponseWidth k)) :
    AddsNoWidthError s t := by
  intro d k hmem
  rw [h, List.mem_append, List.mem_singleton] at hmem
  obtain hold | hnew := hmem
  · exact hold
  · exact absurd (Prod.mk.inj hnew).2.symm (hr k)

/-- An operation handed over returns nothing, or the encoder's InvalidRegister. -/
theorem addsNoWidthError_submit (P : Profile) (O : OpcodeSet) (i : Instr) (s : State) :
    AddsNoWidthError s (submit (encodeOp P O i) s) := by
  obtain ⟨e, he, h⟩ | ⟨f, -, -, h⟩ | ⟨f, c, -, -, h⟩ := submit_cases (encodeOp P O i) s <;> rw [h]
  · obtain ⟨a, rfl⟩ := encodeOp_error he
    exact addsNoWidthError_of_append (deliver_results _ _ s) (by simp)
  · exact addsNoWidthError_of_results_eq (openTransaction_results _ _ s)
  · exact addsNoWidthError_of_results_eq (waitForLock_results _ s)

theorem addsNoWidthError_finish {r : TransactionResult} (hr : ∀ k, r ≠ .err (.unsupportedResponseWidth k))
    (e : Event) (s : State) : AddsNoWidthError s (finish r (record e s)) := by
  obtain ⟨c, howner, -⟩ | ⟨-, h⟩ := finish_cases r (record e s)
  · exact addsNoWidthError_of_append (finish_results_of_owner howner r) hr
  · exact addsNoWidthError_of_results_eq (by simp [h])

/-- A primitive returns a result only where it ends the transaction: a TransportFailure, or the decoded response. -/
theorem PrimitiveEffect.addsNoWidthError {f : Frame} {s t : State} (h : PrimitiveEffect f s t) (hrx : s.rx.length ≤ 3) :
    AddsNoWidthError s t := by
  cases h with
  | unanswered => exact addsNoWidthError_of_results_eq rfl
  | begun _ => exact addsNoWidthError_of_results_eq rfl
  | sent _ _ _ => exact addsNoWidthError_of_results_eq rfl
  | received _ _ _ => exact addsNoWidthError_of_results_eq rfl
  | exchangeFailed _ _ _ => exact addsNoWidthError_of_results_eq rfl
  | unopened _ _ => exact addsNoWidthError_finish (by simp) _ s
  | closed _ _ => exact addsNoWidthError_finish (decodeResponse_ne_widthError hrx) _ s
  | unclosed _ _ _ => exact addsNoWidthError_finish (by simp) _ s
  | released _ _ _ _ => exact addsNoWidthError_finish (by simp) _ s

/-- Settles O45: by what a step can be (step_next_cases); only a primitive decodes a response, and under the invariant it has
at most three bytes. -/
theorem transactionsNeverGiveUnsupportedWidth : Obligations.TransactionsNeverGiveUnsupportedWidth := by
  intro s t hinv hstep
  change AddsNoWidthError s t
  obtain ⟨-, rfl | ⟨k, r, i, -, -, -, rfl⟩ | ⟨k, w, -, -, rfl⟩ | ⟨f, hactive, rfl⟩⟩ := step_next_cases hstep
  · exact addsNoWidthError_of_results_eq rfl
  · simpa [AddsNoWidthError] using
      addsNoWidthError_submit s.profile s.opcodes i (takeRequest k r (afterChoice s))
  · exact addsNoWidthError_of_results_eq (by simp)
  · have heffect : PrimitiveEffect f (dropAnswer (afterChoice s)) (advance (afterChoice s)) :=
      advance_primitiveEffect (by simpa using hactive)
    simpa [AddsNoWidthError] using heffect.addsNoWidthError (by simpa using rx_length_le_three hinv hactive)

end Sys2Proof.Proofs

namespace Sys2Proof.Proofs

open Sys2Proof.Machine Sys2Proof.Safety

/-! ## The reset state (R37, R250, R254) -/

/-- At reset no frame is in flight, no window is open and the lock is free. -/
theorem ready_init (P : Profile) (O : OpcodeSet) : Ready (State.init P O) := by
  simp [Ready]

/-- Settles O6: what the reset state is between transactions (ready_init), and its two configuration fields. -/
theorem resetIsIdleWithFreeLock : Obligations.ResetIsIdleWithFreeLock := by
  intro P O
  obtain ⟨hphase, hwindow, hpos, hrx, howner⟩ := ready_init P O
  exact ⟨hphase, hwindow, hpos, hrx, howner, init_profile P O, init_opcodes P O⟩

theorem framesEncoded_init (P : Profile) (O : OpcodeSet) : FramesEncoded (State.init P O) := by
  simp [FramesEncoded]

/-- Nothing has been on the wire at reset: no transaction has ended, and none is in progress. -/
theorem wireOk_init (P : Profile) (O : OpcodeSet) : WireOk (State.init P O) :=
  ⟨[], [], .nil, (inProgress_of_shut (init_window P O) []).2 rfl, rfl⟩

/-- The link is closed at reset, by the empty trace and by the sequencer (R34). -/
theorem linkAfter_init (P : Profile) (O : OpcodeSet) :
    linkAfter (State.init P O).trace = some (linkOf (State.init P O)) := by
  rw [linkOf_of_shut (init_window P O), init_trace]
  rfl

theorem inv_init {P : Profile} {O : OpcodeSet} (hconf : configWf P O = true) : Inv (State.init P O) := by
  have hseq : sequencerOk (State.init P O) = true := (sequencerOk_iff_ready (init_phase P O)).2 (ready_init P O)
  have hwaiters : waitersOk (State.init P O) = true := (waitersOk_iff _).2 (by simp)
  exact ⟨hconf, hseq, hwaiters, linkAfter_init P O, framesEncoded_init P O, wireOk_init P O⟩

/-- Settles O56: by inv_init, and since the reference pair behind State.reset is well-formed. -/
theorem resetMeetsInvariant : Obligations.ResetMeetsInvariant := by
  have hreference : configWf refA refO = true := by decide
  exact ⟨fun _ _ hconf => inv_init hconf, inv_init hreference⟩

/-! ## Building a block (R251, R252) -/

section
variable {V : Variant} {N : Nat} {table : List (Nat × RegisterRow)} {layout : List LayoutEntry}

theorem boot_of_refused_profile {e : ProfileError} (h : makeProfile V N table layout = .error e) (O : OpcodeSet) :
    boot V N table layout O = .error (.profile e) := by
  simp [boot, h]

/-- With the profile built, the opcode set alone decides. -/
theorem boot_of_profile {P : Profile} (h : makeProfile V N table layout = .ok P) (O : OpcodeSet) :
    boot V N table layout O = if opcodesWf P O then .ok (State.init P O) else .error .opcodeSet := by
  simp [boot, h]

/-- A block is built only of a profile built and an opcode set that meets O1 to O4 against it. -/
theorem built_of_boot {O : OpcodeSet} {s : State} (hboot : boot V N table layout O = .ok s) :
    ∃ P, makeProfile V N table layout = .ok P ∧ opcodesWf P O = true ∧ s = State.init P O := by
  cases hmake : makeProfile V N table layout with
  | error e => simp [boot_of_refused_profile hmake] at hboot
  | ok P =>
    rw [boot_of_profile hmake] at hboot
    split at hboot
    case isTrue hO => exact ⟨P, rfl, hO, (Except.ok.inj hboot).symm⟩
    case isFalse => cases hboot

/-- The block that is built is constructed in the sense of R252. -/
theorem configured_init_of_makeProfile {P : Profile} {O : OpcodeSet} (h : makeProfile V N table layout = .ok P)
    (hO : opcodesWf P O = true) : configured (State.init P O) = true := by
  obtain ⟨hP, -⟩ := profile_of_makeProfile h
  exact (configWf_iff P O).2 ⟨hP, hO⟩

end

/-- Settles O5: what boot answers, by the outcome of makeProfile, and O1 to O4 spelt out (opcodesWf_iff, under WF1's bound). -/
theorem bootGivesResetStateOrNothing : Obligations.BootGivesResetStateOrNothing := by
  intro V N table layout O
  refine ⟨fun s hboot => ?_, fun e hrefused => boot_of_refused_profile hrefused O, fun P hbuilt => ⟨?_, ?_⟩⟩
  · obtain ⟨P, hbuilt, hO, rfl⟩ := built_of_boot hboot
    exact ⟨P, hbuilt, rfl, configured_init_of_makeProfile hbuilt hO, ready_init P O⟩
  · rw [boot_of_profile hbuilt]
    by_cases hO : opcodesWf P O = true <;> simp [hO]
  · have hbound : P.N ≤ 0x20 := (bound_range (profile_of_makeProfile hbuilt).1).2
    have hsuccess : boot V N table layout O = .ok (State.init P O) ↔ opcodesWf P O = true := by
      rw [boot_of_profile hbuilt]
      by_cases hO : opcodesWf P O = true <;> simp [hO]
    exact hsuccess.trans (opcodesWf_iff hbound O)

/-- Settles O52: the step's first test. -/
theorem unconstructedBlockTakesNoStep : Obligations.UnconstructedBlockTakesNoStep := by
  intro s hill
  have hconf : configured s = false := hill
  simp [step, hconf]

/-! ## P and O after construction (R264) -/

theorem submit_configuration (r : Except TxError Frame) (s : State) :
    (submit r s).profile = s.profile ∧ (submit r s).opcodes = s.opcodes := by
  obtain ⟨e, -, h⟩ | ⟨f, -, -, h⟩ | ⟨f, c, -, -, h⟩ := submit_cases r s <;> simp [h]

/-- Settles O44: by what a step can be (step_next_cases): nothing, an operation handed over, a lock granted, a primitive. -/
theorem configurationNeverChanges : Obligations.ConfigurationNeverChanges := by
  intro s t hstep
  obtain ⟨-, rfl | ⟨k, r, i, -, -, -, rfl⟩ | ⟨k, w, -, -, rfl⟩ | ⟨f, -, rfl⟩⟩ := step_next_cases hstep
  · exact ⟨rfl, rfl⟩
  · simpa using submit_configuration (encodeOp s.profile s.opcodes i) (takeRequest k r (afterChoice s))
  · simp
  · obtain ⟨hprofile, hopcodes, -⟩ := primitiveLeavesCallersAlone (afterChoice s)
    exact ⟨hprofile.trans (afterChoice_profile s), hopcodes.trans (afterChoice_opcodes s)⟩

/-! ## The three errors (R220) -/

/-- Settles O13: each constructor's row of errorCode and errorInfo. -/
theorem errorsHaveTheirCodes : Obligations.ErrorsHaveTheirCodes := fun _ => ⟨rfl, rfl, rfl, rfl, rfl, rfl⟩

end Sys2Proof.Proofs
